-- ==== Sys2Proof/Word.lean ====
section
/-! DEFINITION. The widths LDP-FC works with (00_scope R10, R13): all values are unsigned bit vectors. -/

namespace Sys2Proof

/-- One byte, as moved by every port event and every access to the parameter buffer (R59). -/
abbrev Byte := BitVec 8

/-- A 16-bit register or wire field: the CRC, the Length, the counters (R10, R56). -/
abbrev Half := BitVec 16

/-- The 32-bit command word, presented whole on the command port (R70). -/
abbrev Word := BitVec 32

end Sys2Proof
end

