-- ==== Sys2Proof/Config.lean ====
section
/-! DEFINITION. What an implementation of LDP-FC fixes: the one open parameter PBUF_SIZE (00_scope R9) and
what a byte of the parameter buffer that nothing has written reads as (93_implementation_defined U1). -/

namespace Sys2Proof

/-- The largest PBUF_SIZE the spec admits: 49149 (R9), so that the 16-bit Length cannot overflow. -/
abbrev Config.pbufSizeMax : Nat := 49149

/-- PBUF_SIZE of the machine that `State.reset` describes. R9 makes PBUF_SIZE an argument of the model, so the
size itself is the field `State.pbufSize`; this is only its value in the reset state.
DESIGN CHOICE (log entry 3), unsafe: no statement may rest on it. -/
def Config.pbufSize : Fin (Config.pbufSizeMax + 1) := ⟨49149, by decide⟩

/-- What an index of the parameter buffer that lists no byte reads as. U1 lets a model choose it ("for instance
zeros") since no rule can read such a byte. DESIGN CHOICE (log entry 4), unsafe. -/
def Config.blankByte : Byte := 0x00#8

end Sys2Proof
end

