-- ==== Sys2Proof/Machine/State.lean ====
section
/-! DEFINITION. The state of LDP-FC as plain data (10_state R20 to R37), its fault and refusal reasons, and the
state right after reset (R37). -/

namespace Sys2Proof.Machine

/-- The phases of R31. `idle`: no operation in progress; any other value names the one port event the engine
performs next. -/
inductive Phase where
  | idle
  /-- ASM: `Push(TX, HEADER[0])` -/
  | aH0
  /-- ASM: `Push(TX, HEADER[1])` -/
  | aH1
  /-- ASM: `Push(TX, HEADER[2])` -/
  | aH2
  /-- ASM: `Push(TX, HEADER[3])` -/
  | aH3
  /-- ASM: `Push(TX, id)` -/
  | aId
  /-- ASM: `Push(TX, alen[7:0])` -/
  | aL0
  /-- ASM: `Push(TX, alen[15:8])` -/
  | aL1
  /-- ASM: `Push(TX, inst)` -/
  | aInst
  /-- ASM: `Push(TX, pbuf[idx])` -/
  | aPar
  /-- ASM: `Push(TX, 0xFD)`, the stuffing byte -/
  | aStf
  /-- ASM: `Push(TX, crc[7:0])` -/
  | aC0
  /-- ASM: `Push(TX, crc[15:8])` -/
  | aC1
  /-- HUNT: `Pull(RX)` of a byte for the header sentry -/
  | hRx
  /-- PARSE: `Pull(RX)` of the PacketID -/
  | pId
  /-- PARSE: `Pull(RX)` of the Length, low byte -/
  | pL0
  /-- PARSE: `Pull(RX)` of the Length, high byte -/
  | pL1
  /-- PARSE: `Pull(RX)` of the Instruction byte -/
  | pInst
  /-- PARSE: `Pull(RX)` of the device Error byte -/
  | pErr
  /-- PARSE: `Pull(RX)` of a raw parameter byte -/
  | pRaw
  /-- PARSE: `Push(PO, b)` of the logical byte just pulled -/
  | pOut
  /-- PARSE: `Pull(RX)` of the CRC, low byte -/
  | pC0
  /-- PARSE: `Pull(RX)` of the CRC, high byte -/
  | pC1
  deriving DecidableEq, Repr

/-- One completed port event (R11, R15, R52, R53): each moves exactly one byte. -/
inductive PortEvent where
  | pull (b : Byte)
  | pushTx (b : Byte)
  | pushPo (b : Byte)
  deriving DecidableEq, Repr

/-- What the environment does at one step (R54, R271): let the pending event or the presented command
complete, leave it waiting, or assert reset. DESIGN CHOICE (log entry 2). -/
inductive Turn where
  | go
  | wait
  | reset
  deriving DecidableEq, Repr

/-- The parameter buffer as a list of (index, byte) cells in canonical form: indices strictly rising, no cell
equal to what an unlisted index reads as (`memoryWf` in Machine/Ops.lean). -/
abbrev Memory := List Host.Cell

/-- The state of one LDP-FC block and of its environment. -/
structure State where
  /-- the CRC accumulator (R20) -/
  crc : Half
  /-- the stuffing sentry's count, 0..2 (R21; log entry 11) -/
  s3 : Fin 3
  /-- the header sentry's count, 0..3 (R22; log entry 11) -/
  s4 : Fin 4
  /-- write pointer of `pbuf` and number of its valid bytes (R26) -/
  pwp : Half
  /-- the parameter buffer (R27) -/
  pbuf : Memory
  /-- the Length the last ASM computed (R24) -/
  alen : Half
  /-- index of the next parameter byte ASM reads (R24) -/
  idx : Half
  /-- PacketID received (R25) -/
  rid : Byte
  /-- Length received (R25) -/
  rlen : Half
  /-- Instruction byte received (R25) -/
  rinst : Byte
  /-- device Error byte received, alert bit included (R25) -/
  rerr : Byte
  /-- raw parameter bytes still to pull (R25) -/
  rem : Half
  /-- CRC received (R25) -/
  rcrc : Half
  /-- logical parameter bytes pushed to PO (R25) -/
  nlog : Half
  /-- the next raw parameter byte is a stuffing byte (R25) -/
  skip : Bool
  /-- the status register STAT (R28; fields in Machine/Flags.lean) -/
  stat : BitVec 11
  /-- the phase register (R31) -/
  ph : Phase
  /-- operand `id` of the running ASM (R31; log entry 5) -/
  opId : Byte
  /-- operand `inst` of the running ASM (R31; log entry 5) -/
  opInst : Byte
  /-- operand `ce` of the running PARSE (R31; log entry 5) -/
  opCe : Bool
  /-- operand `cap` of the running PARSE (R31; log entry 5) -/
  opCap : Half
  /-- the byte held between a P_RAW pull and its P_OUT push (R31; log entry 5) -/
  held : Byte
  /-- the parameter PBUF_SIZE, constant over a run (R9; log entry 3) -/
  pbufSize : Fin (Config.pbufSizeMax + 1)
  /-- command words the host presents, the head on the command port (R33, R70; log entry 1) -/
  cmds : List Word
  /-- bytes SRC will supply, next byte first (R35, R52; log entry 1) -/
  rx : List Byte
  /-- port events performed, oldest first (R11, R35, R63; log entry 1) -/
  trace : List PortEvent
  /-- the environment's next choices, one per step (log entry 2) -/
  turns : List Turn
  /-- the environment's choice once `turns` is used up (log entry 2) -/
  rest : Turn
  deriving DecidableEq, Repr

/-- Why a step can fault. -/
inductive Fault where
  /-- An access to the parameter buffer at an index at or above PBUF_SIZE, a place that does not exist (R50).
  Raised by CRC_FOLD, PB_PUSH and ASM in states that R26 and R62 rule out. Safe: the machine stops where no
  rule says what it would do (log entry 10). -/
  | pbufOutOfRange
  deriving DecidableEq, Repr

/-- Why a step can be refused by the model. -/
inductive Refusal where
  /-- The instruction has no meaning yet. Raised by no arm of this model. Safe. -/
  | notModelled (mnemonic : String)
  deriving DecidableEq, Repr

/-- The three outcomes of an instruction or a step of this machine. -/
abbrev Result := Host.Outcome State Fault Refusal

/-- The machine right after reset (R37): every register 0, `ph = IDLE`. The contents of `pbuf` (log entry 4),
the operands beside `ph` (log entry 5), PBUF_SIZE (log entry 3) and the environment (log entries 1 and 2) are
the model's choice. -/
def State.reset : State where
  crc := 0x0000#16
  s3 := 0
  s4 := 0
  pwp := 0x0000#16
  pbuf := []
  alen := 0x0000#16
  idx := 0x0000#16
  rid := 0x00#8
  rlen := 0x0000#16
  rinst := 0x00#8
  rerr := 0x00#8
  rem := 0x0000#16
  rcrc := 0x0000#16
  nlog := 0x0000#16
  skip := false
  stat := 0#11
  ph := .idle
  opId := 0x00#8
  opInst := 0x00#8
  opCe := false
  opCap := 0x0000#16
  held := 0x00#8
  pbufSize := Config.pbufSize
  cmds := []
  rx := []
  trace := []
  turns := []
  rest := .go

end Sys2Proof.Machine
end

