-- ==== Sys2Proof/Machine/Flags.lean ====
section
/-! DEFINITION. The status register STAT (10_state R28, R29): reading and writing its fields, and what the kinds
mean (60_exceptions R240). These are all the flags LDP-FC has (R30). -/

namespace Sys2Proof.Machine

/-- STAT from its four fields: `kind` in bits 7:0, `alert` 8, `match` 9, `cmderr` 10 (R28). -/
def statOf (kind : Byte) (alert matched cmderr : Bool) : BitVec 11 :=
  BitVec.ofBool cmderr ++ BitVec.ofBool matched ++ BitVec.ofBool alert ++ kind

/-- `STAT.kind`, bits 7:0 (R28) -/
def statKind (v : BitVec 11) : Byte := v.extractLsb' 0 8
/-- `STAT.alert`, bit 8 (R28) -/
def statAlert (v : BitVec 11) : Bool := v.getLsbD 8
/-- `STAT.match`, bit 9 (R28) -/
def statMatch (v : BitVec 11) : Bool := v.getLsbD 9
/-- `STAT.cmderr`, bit 10 (R28) -/
def statCmderr (v : BitVec 11) : Bool := v.getLsbD 10

/-- `STAT.kind <- k` -/
def setKind (v : BitVec 11) (k : Byte) : BitVec 11 := statOf k (statAlert v) (statMatch v) (statCmderr v)
/-- `STAT.alert <- a` -/
def setAlert (v : BitVec 11) (a : Bool) : BitVec 11 := statOf (statKind v) a (statMatch v) (statCmderr v)
/-- `STAT.match <- m` -/
def setMatch (v : BitVec 11) (m : Bool) : BitVec 11 := statOf (statKind v) (statAlert v) m (statCmderr v)
/-- `STAT.cmderr <- e` -/
def setCmderr (v : BitVec 11) (e : Bool) : BitVec 11 := statOf (statKind v) (statAlert v) (statMatch v) e

/-- The codec-local kinds, the only ones `fail` is used with (R181, R240, R243). -/
inductive LocalKind where
  | notStatus
  | receivedBadCrc
  | badLength
  deriving DecidableEq, Repr

/-- `code(K)` of a codec-local kind (R181, R240). -/
def kindCode : LocalKind → Byte
  | .notStatus => 0x80#8
  | .receivedBadCrc => 0x81#8
  | .badLength => 0x82#8

/-- What a value of `STAT.kind` says (R240). The names of 0x02 to 0x07 are the spec's general knowledge (G3;
log entry 13). -/
inductive KindName where
  | ok
  | resultFail
  | instruction
  | crc
  | dataRange
  | dataLength
  | dataLimit
  | access
  /-- a device-reported kind with no name, 0x08 to 0x7F -/
  | unnamedDevice
  | notStatus
  | receivedBadCrc
  | badLength
  /-- 0x83 to 0xFF, never produced -/
  | neverProduced
  deriving DecidableEq, Repr

/-- The table of R240. -/
def kindName (k : Byte) : KindName :=
  match k.toNat with
  | 0x00 => .ok
  | 0x01 => .resultFail
  | 0x02 => .instruction
  | 0x03 => .crc
  | 0x04 => .dataRange
  | 0x05 => .dataLength
  | 0x06 => .dataLimit
  | 0x07 => .access
  | 0x80 => .notStatus
  | 0x81 => .receivedBadCrc
  | 0x82 => .badLength
  | n => if n < 0x80 then .unnamedDevice else .neverProduced

/-- A kind reported by the device: 0x01 to 0x7F (R240, R242). -/
def isDeviceKind (k : Byte) : Bool := decide (1 ≤ k.toNat) && decide (k.toNat ≤ 0x7F)

/-- The error kind of a device Error byte, its low 7 bits (R7, R87). -/
def errKind (e : Byte) : Byte := e &&& 0x7F#8
/-- The alert flag of a device Error byte, its bit 7 (R7, R87). -/
def errAlert (e : Byte) : Bool := e.getLsbD 7

end Sys2Proof.Machine
end

