-- ==== Sys2Proof/Machine/Wire.lean ====
section
/-! DEFINITION. The constants of the wire (00_scope R5 to R8) and the byte order of its two-byte fields
(20_memory R56). -/

namespace Sys2Proof.Machine

/-- The header `FF FF FD 00`, first byte on the wire first (R5). -/
def header : List Byte := [0xFF#8, 0xFF#8, 0xFD#8, 0x00#8]

/-- `HEADER[i]` (R5, R14); only `i < 4` is ever asked for. -/
def headerByte (i : Nat) : Byte := header.getD i 0x00#8

/-- `STUFF`, the stuffing byte (R5). -/
def stuffByte : Byte := 0xFD#8

/-- `STATUS`, the one Instruction value the parser accepts (R7, R222). -/
def statusMarker : Byte := 0x55#8

/-- `HDR_SEED`, the CRC of the header (R8). -/
def hdrSeed : Half := 0x0E28#16

/-- The status frame's Length beyond its raw parameters: `SZ_INST + SZ_ERR + SZ_CRC` (R6, R85). -/
def statusOverhead : Half := 0x0004#16

/-- The instruction frame's Length beyond its stuffed parameters: `SZ_INST + SZ_CRC` (R6, R84). -/
def instrOverhead : Half := 0x0003#16

/-- `v[7:0]`, the byte that a little-endian field sends or receives first (R56). -/
def loByte (v : Half) : Byte := v.extractLsb' 0 8
/-- `v[15:8]`, the byte that a little-endian field sends or receives second (R56). -/
def hiByte (v : Half) : Byte := v.extractLsb' 8 8
/-- `v[7:0] <- b` -/
def setLo (v : Half) (b : Byte) : Half := hiByte v ++ b
/-- `v[15:8] <- b` -/
def setHi (v : Half) (b : Byte) : Half := b ++ loByte v

end Sys2Proof.Machine
end

