-- ==== Sys2Proof/Machine/Ops.lean ====
section
/-! DEFINITION. The named operations over the parameter buffer, the ports, the command port, and what LDP-FC has
in the place of taking an exception: `refuse` (R78), `fail` (R243) and reset (R270). There is no return from one
(R248). -/

namespace Sys2Proof.Machine

/-! The parameter buffer as memory (R14, R27, R50, R59). -/

/-- What the cells of a buffer say of index `a`; an unlisted index reads as `Config.blankByte` (log entry 4). -/
def memoryRead : Memory → Nat → Byte
  | [], _ => Config.blankByte
  | (k, v) :: rest, a => if k = a then v else memoryRead rest a

/-- The canonical form of writing `b` at `a`: the cell is put in its place, or taken out when `b` is what an
unlisted index reads as. -/
def memoryWrite : Memory → Nat → Byte → Memory
  | [], a, b => if b = Config.blankByte then [] else [(a, b)]
  | (k, v) :: rest, a, b =>
    if k < a then (k, v) :: memoryWrite rest a b
    else if k = a then (if b = Config.blankByte then rest else (a, b) :: rest)
    else if b = Config.blankByte then (k, v) :: rest else (a, b) :: (k, v) :: rest

/-- Every index of the list is above `lo` and they strictly rise; no cell holds the blank byte. -/
def memoryAbove (lo : Nat) : Memory → Bool
  | [] => true
  | (k, v) :: rest => decide (lo < k) && decide (v ≠ Config.blankByte) && memoryAbove k rest

/-- The canonical form: indices strictly rising, no cell equal to what an unlisted index reads as. -/
def memoryWf : Memory → Bool
  | [] => true
  | (k, v) :: rest => decide (v ≠ Config.blankByte) && memoryAbove k rest

/-- `MemRead(i, 1)`: none where the index does not exist (R14, R50). -/
def pbufRead (s : State) (i : Nat) : Option Byte :=
  if i < s.pbufSize.val then some (memoryRead s.pbuf i) else none

/-- `MemWrite(i, 1, b)`: none where the index does not exist (R14, R50). -/
def pbufWrite (s : State) (i : Nat) (b : Byte) : Option State :=
  if i < s.pbufSize.val then some { s with pbuf := memoryWrite s.pbuf i b } else none

/-! The ports (R15, R52, R53). -/

/-- A completed `Push(TX, b)`. -/
def pushTx (b : Byte) (s : State) : State := { s with trace := s.trace ++ [.pushTx b] }

/-- A completed `Push(PO, b)`. -/
def pushPo (b : Byte) (s : State) : State := { s with trace := s.trace ++ [.pushPo b] }

/-- The state after `Pull(RX)` returned `b` and left `bs` in the stream. -/
def pulled (b : Byte) (bs : List Byte) (s : State) : State :=
  { s with rx := bs, trace := s.trace ++ [.pull b] }

/-- `Pull(RX)`, then `k` on the byte; while SRC supplies no byte the engine waits and nothing changes (R54, R55). -/
def pullThen (k : Byte → State → State) (s : State) : State :=
  match s.rx with
  | [] => s
  | b :: bs => k b (pulled b bs s)

/-- The bytes pulled from RX, in order. -/
def pulledBytes (t : List PortEvent) : List Byte :=
  t.filterMap fun e => match e with | .pull b => some b | .pushTx _ => none | .pushPo _ => none

/-- The bytes SNK received on TX, in order. -/
def txBytes (t : List PortEvent) : List Byte :=
  t.filterMap fun e => match e with | .pushTx b => some b | .pull _ => none | .pushPo _ => none

/-- The bytes SNK received on PO, in order. -/
def poBytes (t : List PortEvent) : List Byte :=
  t.filterMap fun e => match e with | .pushPo b => some b | .pull _ => none | .pushTx _ => none

/-! The command port. -/

/-- `busy = (ph != IDLE)` (R36, R250). -/
def State.busy (s : State) : Bool := decide (s.ph ≠ .idle)

/-- Accept a command: at idle, `STAT <- 0` and then the command acts (R29); while the engine is busy the command
port is not ready and the command is held with nothing changed (R33; log entry 8). -/
def accept (act : State → Result) (s : State) : Result :=
  if s.ph = .idle then act { s with stat := 0#11 } else .next s

/-- `refuse`: `STAT <- 0; STAT.cmderr <- 1`, nothing else (R15, R78). -/
def refuse (s : State) : State := { s with stat := setCmderr 0#11 true }

/-- `fail K`, inside PARSE (R15, R243). -/
def fail (k : LocalKind) (s : State) : State :=
  { s with stat := setAlert (setKind s.stat (kindCode k)) false, skip := false, ph := .idle }

/-- The device-reported ending of PARSE step 7 (R181, R189, R243). -/
def reportDevice (s : State) : State :=
  { s with stat := setAlert (setKind s.stat (errKind s.rerr)) (errAlert s.rerr), skip := false, ph := .idle }

/-- The successful ending of PARSE step 8 (R181). -/
def reportOk (s : State) : State := { s with stat := setKind s.stat 0x00#8, ph := .idle }

/-! Reset and the environment's turns. -/

/-- Reset: every register at its value of R37, whatever was running (R270, R271). The environment is not reset:
bytes pushed stay pushed, bytes not yet supplied stay with SRC, words the host presents stay with the host
(log entry 15); PBUF_SIZE is no register. -/
def resetBlock (s : State) : State :=
  { State.reset with
    pbufSize := s.pbufSize, cmds := s.cmds, rx := s.rx, trace := s.trace, turns := s.turns, rest := s.rest }

/-- The environment's choice at this step (log entry 2). -/
def State.turn (s : State) : Turn := s.turns.headD s.rest

/-- The choice is used up. -/
def dropTurn (s : State) : State := { s with turns := s.turns.tail }

/-! What the host can see. -/

/-- The registers of 10_state's summary table as the host reads them (R36): all but `pbuf`, which is write-only to the
host (R51; log entry 14). -/
structure HostView where
  crc : Half
  s3 : Fin 3
  s4 : Fin 4
  pwp : Half
  alen : Half
  idx : Half
  rid : Byte
  rlen : Half
  rinst : Byte
  rerr : Byte
  rem : Half
  rcrc : Half
  nlog : Half
  skip : Bool
  stat : BitVec 11
  ph : Phase
  deriving DecidableEq, Repr

/-- A host read: the registers while `ph = IDLE`, no read move while the engine is busy (R36, U7). -/
def hostView (s : State) : Option HostView :=
  if s.busy then none
  else some {
    crc := s.crc, s3 := s.s3, s4 := s.s4, pwp := s.pwp, alen := s.alen, idx := s.idx, rid := s.rid,
    rlen := s.rlen, rinst := s.rinst, rerr := s.rerr, rem := s.rem, rcrc := s.rcrc, nlog := s.nlog,
    skip := s.skip, stat := s.stat, ph := s.ph }

end Sys2Proof.Machine
end

