-- ==== Sys2Proof/Machine/Operands.lean ====
section
/-! DEFINITION. The operands of the commands. The explicit ones are fields of the command word, extracted by the
decoder (30_encoding R73; Decode.lean). The implicit one is the parameter sequence of ASM and CRC_FOLD
(R106, R164). -/

namespace Sys2Proof.Machine

/-- `pbuf[0..n-1]`, in wire order. -/
def pbufBytes (m : Memory) (n : Nat) : List Byte := (List.range n).map (memoryRead m)

/-- The implicit operand `p = pbuf[0..pwp-1]` of ASM and CRC_FOLD (R106, R164); none when some index below `pwp`
does not exist, which R26 rules out. -/
def params (s : State) : Option (List Byte) :=
  if s.pwp.toNat ≤ s.pbufSize.val then some (pbufBytes s.pbuf s.pwp.toNat) else none

end Sys2Proof.Machine
end

