-- ==== Sys2Proof/Machine/Crc.lean ====
section
/-! DEFINITION. The CRC engine: the table by its normative construction (40_crc R102), the step function (R100),
the fold (R107), and the commands CRC_CLR, CRC_LD, CRC_ADV, CRC_FOLD (R103 to R106). -/

namespace Sys2Proof.Machine

/-- One round of the table's construction, with the generator 0x8005 (R101, R102). -/
def crcShift (c : Half) : Half := if c.msb then (c <<< 1) ^^^ 0x8005#16 else c <<< 1

/-- `n` rounds. -/
def crcShifts : Nat → Half → Half
  | 0, c => c
  | n + 1, c => crcShifts n (crcShift c)

/-- `T[i]`: eight rounds from `i << 8` (R102). -/
def crcTable (i : Byte) : Half := crcShifts 8 (i ++ 0x00#8)

/-- `Adv(s, b)` (R100). -/
def adv (s : Half) (b : Byte) : Half := (s <<< 8) ^^^ crcTable (hiByte s ^^^ b)

/-- `Fold(s, bs)`, first byte first (R107). -/
def fold (s : Half) (bs : List Byte) : Half := bs.foldl adv s

/-- `CRC_CLR` (R103) -/
def execCrcClr (s : State) : Result := accept (fun t => .next { t with crc := 0x0000#16 }) s

/-- `CRC_LD v` (R104) -/
def execCrcLd (v : Half) (s : State) : Result := accept (fun t => .next { t with crc := v }) s

/-- `CRC_ADV b` (R105) -/
def execCrcAdv (b : Byte) (s : State) : Result := accept (fun t => .next { t with crc := adv t.crc b }) s

/-- `CRC_FOLD` (R106) -/
def execCrcFold (s : State) : Result :=
  accept (fun t =>
    match params t with
    | some p => .next { t with crc := fold t.crc p }
    | none => .fault .pbufOutOfRange) s

end Sys2Proof.Machine
end

