-- ==== Sys2Proof/Machine/Sentry.lean ====
section
/-! DEFINITION. The pattern sentry: its step function (41_sentry R120) and the commands S3_CLR, S3_FEED, S4_CLR,
S4_FEED, HUNT (R125 to R129). -/

namespace Sys2Proof.Machine

/-- The value `t` of R120: advance, stay or reset. -/
def sentryNext (c : Nat) (b : Byte) : Nat :=
  if headerByte c = b then c + 1
  else if b = headerByte 0 ∧ c < 3 then c
  else 0

theorem sentryNext_le (c : Nat) (b : Byte) : sentryNext c b ≤ c + 1 := by
  unfold sentryNext; split
  · exact Nat.le_refl _
  · split <;> omega

theorem sentryNext_lt {n : Nat} (c : Fin n) (b : Byte) (h : sentryNext c.val b ≠ n) :
    sentryNext c.val b < n :=
  Nat.lt_of_le_of_ne (Nat.le_trans (sentryNext_le c.val b) c.isLt) h

/-- `Feed(N, c, b)`: the new count and the match bit; on a match the count goes back to 0 (R120). -/
def feed (n : Nat) (c : Fin n) (b : Byte) : Fin n × Bool :=
  if h : sentryNext c.val b = n then (⟨0, c.pos⟩, true)
  else (⟨sentryNext c.val b, sentryNext_lt c b h⟩, false)

/-- `S3_CLR` (R125) -/
def execS3Clr (s : State) : Result := accept (fun t => .next { t with s3 := 0 }) s

/-- `S3_FEED b` (R126) -/
def execS3Feed (b : Byte) (s : State) : Result :=
  accept (fun t => .next { t with s3 := (feed 3 t.s3 b).1, stat := setMatch t.stat (feed 3 t.s3 b).2 }) s

/-- `S4_CLR` (R127) -/
def execS4Clr (s : State) : Result := accept (fun t => .next { t with s4 := 0 }) s

/-- `S4_FEED b` (R128) -/
def execS4Feed (b : Byte) (s : State) : Result :=
  accept (fun t => .next { t with s4 := (feed 4 t.s4 b).1, stat := setMatch t.stat (feed 4 t.s4 b).2 }) s

/-- `HUNT` at acceptance: the first port event is the pull of `H_RX` (R129). -/
def execHunt (s : State) : Result := accept (fun t => .next { t with ph := .hRx }) s

/-- HUNT's loop body on the byte pulled at `H_RX` (R129). -/
def huntByte (b : Byte) (s : State) : State :=
  if (feed 4 s.s4 b).2 then { s with s4 := (feed 4 s.s4 b).1, stat := setMatch s.stat true, ph := .idle }
  else { s with s4 := (feed 4 s.s4 b).1 }

end Sys2Proof.Machine
end

