-- ==== Sys2Proof/Machine/Stuffing.lean ====
section
/-! DEFINITION. Byte stuffing and destuffing as pure functions over byte lists (42_stuffing R140 to R142). -/

namespace Sys2Proof.Machine

/-- The sentry's count after feeding a list from count `c`. -/
def feedAll (n : Nat) (c : Fin n) (bs : List Byte) : Fin n := bs.foldl (fun c b => (feed n c b).1) c

/-- `StuffCount` from count `c` (R140). -/
def stuffCountFrom (c : Fin 3) : List Byte → Nat
  | [] => 0
  | b :: bs => (feed 3 c b).2.toNat + stuffCountFrom (feed 3 c b).1 bs

/-- `StuffCount(p)` (R140). -/
def stuffCount (p : List Byte) : Nat := stuffCountFrom 0 p

/-- `Stuff` from count `c` (R141). -/
def stuffFrom (c : Fin 3) : List Byte → List Byte
  | [] => []
  | b :: bs =>
    if (feed 3 c b).2 then b :: stuffByte :: stuffFrom (feed 3 c b).1 bs
    else b :: stuffFrom (feed 3 c b).1 bs

/-- `Stuff(p)` (R141). -/
def stuff (p : List Byte) : List Byte := stuffFrom 0 p

/-- `Destuff` from count `c` with a pending `skip` (R142). -/
def destuffFrom (c : Fin 3) (skip : Bool) : List Byte → List Byte
  | [] => []
  | b :: bs =>
    if skip then destuffFrom c false bs
    else b :: destuffFrom (feed 3 c b).1 (feed 3 c b).2 bs

/-- `Destuff(r)` (R142). -/
def destuff (r : List Byte) : List Byte := destuffFrom 0 false r

end Sys2Proof.Machine
end

