-- ==== Sys2Proof/Machine/Assemble.lean ====
section
/-! DEFINITION. The frame assembler: PB_CLR, PB_PUSH, ASM (43_assemble R160, R161, R164) and the port events ASM
performs, one per phase. What the pseudocode does between two port events is done in the step of the earlier one
(log entry 12). -/

namespace Sys2Proof.Machine

/-- `PB_CLR` (R160) -/
def execPbClr (s : State) : Result := accept (fun t => .next { t with pwp := 0x0000#16 }) s

/-- `PB_PUSH b` (R161): refused when the buffer is full. -/
def execPbPush (b : Byte) (s : State) : Result :=
  accept (fun t =>
    if t.pwp.toNat = t.pbufSize.val then .next (refuse t)
    else
      match pbufWrite t t.pwp.toNat b with
      | some u => .next { u with pwp := u.pwp + 1 }
      | none => .fault .pbufOutOfRange) s

/-- `ASM id, inst` at acceptance (R164): the first pass over the buffer (step 1), then the first port event is
the push of `A_H0`. -/
def execAsm (id inst : Byte) (s : State) : Result :=
  accept (fun t =>
    match params t with
    | some p =>
      .next { t with
        crc := 0x0000#16
        alen := t.pwp + BitVec.ofNat 16 (stuffCount p) + instrOverhead
        opId := id
        opInst := inst
        ph := .aH0 }
    | none => .fault .pbufOutOfRange) s

/-- `Push(TX, b); crc <- Adv(crc, b)` (R164). -/
def sendByte (b : Byte) (s : State) : State := { pushTx b s with crc := adv s.crc b }

/-- The test of `while idx < pwp` (R164). -/
def paramLoop (s : State) : State := { s with ph := if s.idx < s.pwp then .aPar else .aC0 }

/-- The event `A_INST` on the Instruction byte `t`, then step 3's `s3 <- 0; idx <- 0` (R164, R210). -/
def sendInst (t : Byte) (s : State) : State :=
  paramLoop { sendByte t s with s3 := 0, idx := 0x0000#16 }

/-- The event `A_PAR` on the parameter byte `b` (R164). -/
def sendParam (b : Byte) (s : State) : State :=
  let u := { sendByte b s with s3 := (feed 3 s.s3 b).1, idx := s.idx + 1 }
  if (feed 3 s.s3 b).2 then { u with ph := .aStf } else paramLoop u

/-- `A_PAR`: read `pbuf[idx]`, then send it (R164). -/
def asmParam (s : State) : Result :=
  match pbufRead s s.idx.toNat with
  | some b => .next (sendParam b s)
  | none => .fault .pbufOutOfRange

end Sys2Proof.Machine
end

