-- ==== Sys2Proof/Machine/Parse.lean ====
section
/-! DEFINITION. The frame parser: PARSE (44_parse R180, R181) and the port events it performs, one per phase.
What the pseudocode does between two port events is done in the step of the earlier one (log entry 12). -/

namespace Sys2Proof.Machine

/-- `PARSE ce, cap` at acceptance (R181): the parser's registers cleared, the CRC seeded with the header. -/
def execParse (ce : Bool) (cap : Half) (s : State) : Result :=
  accept (fun t =>
    .next { t with
      rid := 0x00#8, rlen := 0x0000#16, rinst := 0x00#8, rerr := 0x00#8, rem := 0x0000#16,
      rcrc := 0x0000#16, nlog := 0x0000#16, skip := false
      crc := hdrSeed
      s3 := 0
      opCe := ce
      opCap := cap
      ph := .pId }) s

/-- `P_ID`: `rid <- b`, accumulated (R181). -/
def recvId (b : Byte) (s : State) : State := { s with rid := b, crc := adv s.crc b, ph := .pL0 }

/-- `P_L0`: `rlen[7:0] <- b`, accumulated (R181). -/
def recvL0 (b : Byte) (s : State) : State := { s with rlen := setLo s.rlen b, crc := adv s.crc b, ph := .pL1 }

/-- `P_L1`: `rlen[15:8] <- b`, accumulated (R181). -/
def recvL1 (b : Byte) (s : State) : State := { s with rlen := setHi s.rlen b, crc := adv s.crc b, ph := .pInst }

/-- `P_INST`: `rinst <- b`, accumulated (R181, R211). -/
def recvInst (b : Byte) (s : State) : State := { s with rinst := b, crc := adv s.crc b, ph := .pErr }

/-- The test of `while rem != 0`, and `skip <- 0` after the loop (R181, R187). -/
def rawLoop (s : State) : State :=
  if s.rem = 0x0000#16 then { s with skip := false, ph := .pC0 } else { s with ph := .pRaw }

/-- Steps 3 and 4: the Instruction byte, the least Length, the capacity, in that order (R181 to R184, R245). -/
def checkHead (s : State) : State :=
  if s.rinst ≠ statusMarker then fail .notStatus s
  else if s.rlen < statusOverhead then fail .badLength s
  else
    let t := { s with rem := s.rlen - statusOverhead }
    if t.opCe = true ∧ t.rem ≠ t.opCap then fail .badLength t
    else rawLoop t

/-- `P_ERR`: `rerr <- b`, accumulated, then steps 3 and 4 (R181). -/
def recvErr (b : Byte) (s : State) : State := checkHead { s with rerr := b, crc := adv s.crc b }

/-- `P_RAW`: a raw parameter byte, dropped when `skip` is set, else held for its push (R181, R185, R187). -/
def recvRaw (b : Byte) (s : State) : State :=
  let t := { s with crc := adv s.crc b, rem := s.rem - 1 }
  if t.skip then rawLoop { t with skip := false } else { t with held := b, ph := .pOut }

/-- `P_OUT`: the held byte goes to PO, is counted and fed to the stuffing sentry (R181, R186). -/
def sendLogical (s : State) : State :=
  rawLoop { pushPo s.held s with
    nlog := s.nlog + 1, s3 := (feed 3 s.s3 s.held).1, skip := (feed 3 s.s3 s.held).2 }

/-- `P_C0`: `rcrc[7:0] <- b`, not accumulated (R181, R188). -/
def recvC0 (b : Byte) (s : State) : State := { s with rcrc := setLo s.rcrc b, ph := .pC1 }

/-- The end of PARSE, steps 6 to 8: the CRC, then the device's report, then success (R181, R188, R189, R245). -/
def verdict (s : State) : State :=
  if s.rcrc ≠ s.crc then fail .receivedBadCrc s
  else if errKind s.rerr ≠ 0x00#8 then reportDevice s
  else reportOk s

/-- `P_C1`: `rcrc[15:8] <- b`, then the end of PARSE (R181). -/
def recvC1 (b : Byte) (s : State) : State := verdict { s with rcrc := setHi s.rcrc b }

end Sys2Proof.Machine
end

