-- ==== Sys2Proof/Machine/WireTags.lean ====
section
/-! DEFINITION. The wire instruction tags (45_wire_tags). LDP-FC meets the Instruction byte of a frame at two port
events: `A_INST`, where ASM sends it (R210), and `P_INST`, where PARSE has pulled it (R211). A tag's meaning is
what the block does with that byte at the event the phase register names (log entry 6). -/

namespace Sys2Proof.Machine

/-- The block's handling of the Instruction byte `t`, a tag or one of the 240 other values (R210, R211, R229).
At `P_INST` the byte has just been pulled. At idle nothing carries a tag: it is no command, and as a command word
(`t` with zeros above it) it has the reserved opcode 0x0 and is refused (R77, R78). At any other event of a
running operation no Instruction byte is due and the block is held by that event (log entry 7). -/
def instructionByte (t : Byte) (s : State) : State :=
  match s.ph with
  | .aInst => sendInst t s
  | .pInst => recvInst t s
  | .idle => refuse s
  | .aH0 | .aH1 | .aH2 | .aH3 | .aId | .aL0 | .aL1 | .aPar | .aStf | .aC0 | .aC1 => s
  | .hRx | .pId | .pL0 | .pL1 | .pErr | .pRaw | .pOut | .pC0 | .pC1 => s

/-- wire tag `PING` (R213) -/
def execPing (s : State) : Result := .next (instructionByte 0x01#8 s)

/-- wire tag `READ` (R214) -/
def execRead (s : State) : Result := .next (instructionByte 0x02#8 s)

/-- wire tag `WRITE` (R215) -/
def execWrite (s : State) : Result := .next (instructionByte 0x03#8 s)

/-- wire tag `REG_WRITE` (R216) -/
def execRegWrite (s : State) : Result := .next (instructionByte 0x04#8 s)

/-- wire tag `ACTION` (R217) -/
def execAction (s : State) : Result := .next (instructionByte 0x05#8 s)

/-- wire tag `FACTORY_RESET` (R218) -/
def execFactoryReset (s : State) : Result := .next (instructionByte 0x06#8 s)

/-- wire tag `REBOOT` (R219) -/
def execReboot (s : State) : Result := .next (instructionByte 0x08#8 s)

/-- wire tag `CLEAR` (R220) -/
def execClear (s : State) : Result := .next (instructionByte 0x10#8 s)

/-- wire tag `CONTROL_TABLE_BACKUP` (R221) -/
def execControlTableBackup (s : State) : Result := .next (instructionByte 0x20#8 s)

/-- wire tag `RETURN` (R222) -/
def execReturnStatus (s : State) : Result := .next (instructionByte 0x55#8 s)

/-- wire tag `SYNC_READ` (R223) -/
def execSyncRead (s : State) : Result := .next (instructionByte 0x82#8 s)

/-- wire tag `SYNC_WRITE` (R224) -/
def execSyncWrite (s : State) : Result := .next (instructionByte 0x83#8 s)

/-- wire tag `FAST_SYNC_READ` (R225) -/
def execFastSyncRead (s : State) : Result := .next (instructionByte 0x8A#8 s)

/-- wire tag `BULK_READ` (R226) -/
def execBulkRead (s : State) : Result := .next (instructionByte 0x92#8 s)

/-- wire tag `BULK_WRITE` (R227) -/
def execBulkWrite (s : State) : Result := .next (instructionByte 0x93#8 s)

/-- wire tag `FAST_BULK_READ` (R228) -/
def execFastBulkRead (s : State) : Result := .next (instructionByte 0x9A#8 s)

end Sys2Proof.Machine
end

