-- ==== Sys2Proof/Syntax.lean ====
section
/-! DEFINITION. The instructions: one constructor per row of the opcode table, thirteen commands
(30_encoding R72) and sixteen wire instruction tags (45_wire_tags R213 to R228), and the spec's
pseudo-commands (R93). Operand widths are those of R73, so every term is a well-formed instruction. -/

namespace Sys2Proof

/-- One constructor per row of spec/opcode_table.json, in the table's order. -/
inductive Instr where
  /-- `CRC_CLR` (R103) -/
  | crcClr
  /-- `CRC_LD v` (R104) -/
  | crcLd (v : Half)
  /-- `CRC_ADV b` (R105) -/
  | crcAdv (b : Byte)
  /-- `CRC_FOLD` (R106) -/
  | crcFold
  /-- `S3_CLR` (R125) -/
  | s3Clr
  /-- `S3_FEED b` (R126) -/
  | s3Feed (b : Byte)
  /-- `S4_CLR` (R127) -/
  | s4Clr
  /-- `S4_FEED b` (R128) -/
  | s4Feed (b : Byte)
  /-- `PB_CLR` (R160) -/
  | pbClr
  /-- `PB_PUSH b` (R161) -/
  | pbPush (b : Byte)
  /-- `ASM id, inst` (R164) -/
  | asm (id inst : Byte)
  /-- `HUNT` (R129) -/
  | hunt
  /-- `PARSE ce, cap` (R180, R181) -/
  | parse (ce : Bool) (cap : Half)
  /-- wire tag `PING` 0x01 (R213) -/
  | ping
  /-- wire tag `READ` 0x02 (R214) -/
  | read
  /-- wire tag `WRITE` 0x03 (R215) -/
  | write
  /-- wire tag `REG_WRITE` 0x04 (R216) -/
  | regWrite
  /-- wire tag `ACTION` 0x05 (R217) -/
  | action
  /-- wire tag `FACTORY_RESET` 0x06 (R218) -/
  | factoryReset
  /-- wire tag `REBOOT` 0x08 (R219) -/
  | reboot
  /-- wire tag `CLEAR` 0x10 (R220) -/
  | clear
  /-- wire tag `CONTROL_TABLE_BACKUP` 0x20 (R221) -/
  | controlTableBackup
  /-- wire tag `RETURN` 0x55, the status marker (R222) -/
  | returnStatus
  /-- wire tag `SYNC_READ` 0x82 (R223) -/
  | syncRead
  /-- wire tag `SYNC_WRITE` 0x83 (R224) -/
  | syncWrite
  /-- wire tag `FAST_SYNC_READ` 0x8A (R225) -/
  | fastSyncRead
  /-- wire tag `BULK_READ` 0x92 (R226) -/
  | bulkRead
  /-- wire tag `BULK_WRITE` 0x93 (R227) -/
  | bulkWrite
  /-- wire tag `FAST_BULK_READ` 0x9A (R228) -/
  | fastBulkRead
  deriving DecidableEq, Repr

/-- The bits an instruction is spelled with: a command is one 32-bit word (R70), a wire tag is one byte
matched against the Instruction byte of a frame (R212). -/
inductive Code where
  | command (w : Word)
  | tag (b : Byte)
  deriving DecidableEq, Repr

/-- The pseudo-commands of R93. -/
inductive Pseudo where
  /-- `LOADP b0 .. bn-1` -/
  | loadp (bs : List Byte)
  /-- `SEND id, inst, b0 .. bn-1`, the source's `render` -/
  | send (id inst : Byte) (bs : List Byte)
  /-- `RECV` -/
  | recv
  /-- `RECVN cap` -/
  | recvn (cap : Half)
  /-- `CRC16 b0 .. bn-1` -/
  | crc16 (bs : List Byte)
  deriving DecidableEq, Repr

/-- The fixed expansion of a pseudo-command (R93). -/
def Pseudo.expand : Pseudo → List Instr
  | .loadp bs => .pbClr :: bs.map .pbPush
  | .send id inst bs => (.pbClr :: bs.map .pbPush) ++ [.asm id inst]
  | .recv => [.hunt, .parse false 0]
  | .recvn cap => [.hunt, .parse true cap]
  | .crc16 bs => .crcClr :: bs.map .crcAdv

/-- The mnemonic of a row, as the opcode table spells it. -/
def Instr.mnemonic : Instr → String
  | .crcClr => "CRC_CLR"
  | .crcLd _ => "CRC_LD"
  | .crcAdv _ => "CRC_ADV"
  | .crcFold => "CRC_FOLD"
  | .s3Clr => "S3_CLR"
  | .s3Feed _ => "S3_FEED"
  | .s4Clr => "S4_CLR"
  | .s4Feed _ => "S4_FEED"
  | .pbClr => "PB_CLR"
  | .pbPush _ => "PB_PUSH"
  | .asm _ _ => "ASM"
  | .hunt => "HUNT"
  | .parse _ _ => "PARSE"
  | .ping => "PING"
  | .read => "READ"
  | .write => "WRITE"
  | .regWrite => "REG_WRITE"
  | .action => "ACTION"
  | .factoryReset => "FACTORY_RESET"
  | .reboot => "REBOOT"
  | .clear => "CLEAR"
  | .controlTableBackup => "CONTROL_TABLE_BACKUP"
  | .returnStatus => "RETURN"
  | .syncRead => "SYNC_READ"
  | .syncWrite => "SYNC_WRITE"
  | .fastSyncRead => "FAST_SYNC_READ"
  | .bulkRead => "BULK_READ"
  | .bulkWrite => "BULK_WRITE"
  | .fastBulkRead => "FAST_BULK_READ"

/-- The operands in the order R92 writes them after the mnemonic. -/
def Instr.operands : Instr → List Nat
  | .crcLd v => [v.toNat]
  | .crcAdv b => [b.toNat]
  | .s3Feed b => [b.toNat]
  | .s4Feed b => [b.toNat]
  | .pbPush b => [b.toNat]
  | .asm id inst => [id.toNat, inst.toNat]
  | .parse ce cap => [ce.toNat, cap.toNat]
  | .crcClr | .crcFold | .s3Clr | .s4Clr | .pbClr | .hunt => []
  | .ping | .read | .write | .regWrite | .action | .factoryReset | .reboot | .clear => []
  | .controlTableBackup | .returnStatus | .syncRead | .syncWrite | .fastSyncRead => []
  | .bulkRead | .bulkWrite | .fastBulkRead => []

/-- The textual form of a command (R92): the mnemonic, then the operands separated by commas, in decimal. -/
def Instr.text (i : Instr) : String :=
  match i.operands with
  | [] => i.mnemonic
  | os => i.mnemonic ++ " " ++ String.intercalate ", " (os.map toString)

end Sys2Proof
end

