-- ==== Sys2Proof/Machine/Dispatch.lean ====
section
/-! DEFINITION. One arm per constructor of Instr, each one direct call of the instruction's meaning. -/

namespace Sys2Proof.Machine

def exec (i : Instr) (s : State) : Host.Outcome State Fault Refusal :=
  match i with
  | .crcClr => Sys2Proof.Machine.execCrcClr s
  | .crcLd v => Sys2Proof.Machine.execCrcLd v s
  | .crcAdv b => Sys2Proof.Machine.execCrcAdv b s
  | .crcFold => Sys2Proof.Machine.execCrcFold s
  | .s3Clr => Sys2Proof.Machine.execS3Clr s
  | .s3Feed b => Sys2Proof.Machine.execS3Feed b s
  | .s4Clr => Sys2Proof.Machine.execS4Clr s
  | .s4Feed b => Sys2Proof.Machine.execS4Feed b s
  | .pbClr => Sys2Proof.Machine.execPbClr s
  | .pbPush b => Sys2Proof.Machine.execPbPush b s
  | .asm id inst => Sys2Proof.Machine.execAsm id inst s
  | .hunt => Sys2Proof.Machine.execHunt s
  | .parse ce cap => Sys2Proof.Machine.execParse ce cap s
  | .ping => Sys2Proof.Machine.execPing s
  | .read => Sys2Proof.Machine.execRead s
  | .write => Sys2Proof.Machine.execWrite s
  | .regWrite => Sys2Proof.Machine.execRegWrite s
  | .action => Sys2Proof.Machine.execAction s
  | .factoryReset => Sys2Proof.Machine.execFactoryReset s
  | .reboot => Sys2Proof.Machine.execReboot s
  | .clear => Sys2Proof.Machine.execClear s
  | .controlTableBackup => Sys2Proof.Machine.execControlTableBackup s
  | .returnStatus => Sys2Proof.Machine.execReturnStatus s
  | .syncRead => Sys2Proof.Machine.execSyncRead s
  | .syncWrite => Sys2Proof.Machine.execSyncWrite s
  | .fastSyncRead => Sys2Proof.Machine.execFastSyncRead s
  | .bulkRead => Sys2Proof.Machine.execBulkRead s
  | .bulkWrite => Sys2Proof.Machine.execBulkWrite s
  | .fastBulkRead => Sys2Proof.Machine.execFastBulkRead s

end Sys2Proof.Machine
end

