-- ==== Sys2Proof/Machine/Engine.lean ====
section
/-! DEFINITION. The port event each phase names (10_state R31): one event per step (R295), each followed by what
the pseudocode does up to the next event (43_assemble R164, 41_sentry R129, 44_parse R181). -/

namespace Sys2Proof.Machine

/-- `Push(TX, b); crc <- Adv(crc, b)`, then on to phase `p` (R164). -/
def sendThen (b : Byte) (p : Phase) (s : State) : State := { sendByte b s with ph := p }

/-- Perform the pending port event. A pull with nothing supplied waits (R54); at idle nothing is pending. -/
def portEvent (s : State) : Result :=
  match s.ph with
  | .idle => .next s
  | .aH0 => .next (sendThen (headerByte 0) .aH1 s)
  | .aH1 => .next (sendThen (headerByte 1) .aH2 s)
  | .aH2 => .next (sendThen (headerByte 2) .aH3 s)
  | .aH3 => .next (sendThen (headerByte 3) .aId s)
  | .aId => .next (sendThen s.opId .aL0 s)
  | .aL0 => .next (sendThen (loByte s.alen) .aL1 s)
  | .aL1 => .next (sendThen (hiByte s.alen) .aInst s)
  | .aInst => .next (sendInst s.opInst s)
  | .aPar => asmParam s
  | .aStf => .next (paramLoop (sendByte stuffByte s))
  | .aC0 => .next { pushTx (loByte s.crc) s with ph := .aC1 }
  | .aC1 => .next { pushTx (hiByte s.crc) s with ph := .idle }
  | .hRx => .next (pullThen huntByte s)
  | .pId => .next (pullThen recvId s)
  | .pL0 => .next (pullThen recvL0 s)
  | .pL1 => .next (pullThen recvL1 s)
  | .pInst => .next (pullThen recvInst s)
  | .pErr => .next (pullThen recvErr s)
  | .pRaw => .next (pullThen recvRaw s)
  | .pOut => .next (sendLogical s)
  | .pC0 => .next (pullThen recvC0 s)
  | .pC1 => .next (pullThen recvC1 s)

end Sys2Proof.Machine
end

