-- ==== Sys2Proof/WellFormed.lean ====
section
/-! DEFINITION. Which bit patterns spell an instruction: the formats of R71, the opcode map of R72 and the
wire tag rows (R212). A term of `Instr` is always well formed (its operand types carry the widths of R73);
what can be ill formed is a word (a reserved opcode, a reserved bit set: R77) or a byte that is no tag (R229). -/

namespace Sys2Proof

/-- The five formats of R71. -/
inductive Format where
  | N | B | H | A | P
  deriving DecidableEq, Repr

/-- The bits that a format leaves to its operands; every other bit below the opcode is reserved (R71). -/
def Format.operandMask : Format → Word
  | .N => 0x00000000#32
  | .B => 0x000000FF#32
  | .H => 0x0000FFFF#32
  | .A => 0x0000FFFF#32
  | .P => 0x0001FFFF#32

/-- The format an opcode has (R71, R72); none for the reserved opcodes 0x0, 0xE and 0xF. -/
def formatOf (op : Nat) : Option Format :=
  match op with
  | 0x1 => some .N
  | 0x2 => some .H
  | 0x3 => some .B
  | 0x4 => some .N
  | 0x5 => some .N
  | 0x6 => some .B
  | 0x7 => some .N
  | 0x8 => some .B
  | 0x9 => some .N
  | 0xA => some .B
  | 0xB => some .A
  | 0xC => some .N
  | 0xD => some .P
  | _ => none

/-- One row of the opcode map (R72): a word spells the row exactly when `w &&& mask = bits`. -/
structure Row where
  mnemonic : String
  bits : Word
  mask : Word
  deriving DecidableEq, Repr

/-- The thirteen command rows of R72. -/
def commandRows : List Row :=
  [⟨"CRC_CLR", 0x10000000#32, 0xFFFFFFFF#32⟩,
   ⟨"CRC_LD", 0x20000000#32, 0xFFFF0000#32⟩,
   ⟨"CRC_ADV", 0x30000000#32, 0xFFFFFF00#32⟩,
   ⟨"CRC_FOLD", 0x40000000#32, 0xFFFFFFFF#32⟩,
   ⟨"S3_CLR", 0x50000000#32, 0xFFFFFFFF#32⟩,
   ⟨"S3_FEED", 0x60000000#32, 0xFFFFFF00#32⟩,
   ⟨"S4_CLR", 0x70000000#32, 0xFFFFFFFF#32⟩,
   ⟨"S4_FEED", 0x80000000#32, 0xFFFFFF00#32⟩,
   ⟨"PB_CLR", 0x90000000#32, 0xFFFFFFFF#32⟩,
   ⟨"PB_PUSH", 0xA0000000#32, 0xFFFFFF00#32⟩,
   ⟨"ASM", 0xB0000000#32, 0xFFFF0000#32⟩,
   ⟨"HUNT", 0xC0000000#32, 0xFFFFFFFF#32⟩,
   ⟨"PARSE", 0xD0000000#32, 0xFFFE0000#32⟩]

/-- A word spells a row (R72). -/
def Row.spells (r : Row) (w : Word) : Bool := (w &&& r.mask) == r.bits

/-- The opcode of a word is one of the thirteen commands' (R77). -/
def opcodeAssigned (w : Word) : Bool := (formatOf (w >>> 28).toNat).isSome

/-- Every bit that the format of the word's opcode reserves is 0 (R71, R77). -/
def reservedBitsClear (w : Word) : Bool :=
  match formatOf (w >>> 28).toNat with
  | some f => (w &&& 0x0FFFFFFF#32 &&& ~~~ f.operandMask) == 0#32
  | none => false

/-- A command word that is not reserved (R77). -/
def wellFormedWord (w : Word) : Bool := opcodeAssigned w && reservedBitsClear w

/-- The sixteen named Instruction byte values (R213 to R228). -/
def tagBytes : List Byte :=
  [0x01#8, 0x02#8, 0x03#8, 0x04#8, 0x05#8, 0x06#8, 0x08#8, 0x10#8,
   0x20#8, 0x55#8, 0x82#8, 0x83#8, 0x8A#8, 0x92#8, 0x93#8, 0x9A#8]

/-- The bits spell an instruction: a word that is not reserved, or a byte that is a named tag. -/
def Code.wellFormed : Code → Bool
  | .command w => wellFormedWord w
  | .tag b => tagBytes.contains b

end Sys2Proof
end

