-- ==== Sys2Proof/Decode.lean ====
section
/-! DEFINITION. Decoding of command words (30_encoding R70 to R79) and of wire tags (R212), total, rejecting
by name; then the encoder, written from the same tables. -/

namespace Sys2Proof

/-! Operand fields of a command word, taken from the word as it stands (R73). -/

/-- `op = w[31:28]` (R70) -/
def opField (w : Word) : BitVec 4 := w.extractLsb' 28 4
/-- `b = w[7:0]` -/
def bField (w : Word) : Byte := w.extractLsb' 0 8
/-- `v = w[15:0]` -/
def vField (w : Word) : Half := w.extractLsb' 0 16
/-- `id = w[15:8]` -/
def idField (w : Word) : Byte := w.extractLsb' 8 8
/-- `inst = w[7:0]` -/
def instField (w : Word) : Byte := w.extractLsb' 0 8
/-- `ce = w[16]` -/
def ceField (w : Word) : Bool := w.getLsbD 16
/-- `cap = w[15:0]` -/
def capField (w : Word) : Half := w.extractLsb' 0 16

/-- Why bits spell no instruction (R77, R229). -/
inductive Rejected where
  /-- the opcode is 0x0, 0xE or 0xF -/
  | reservedOpcode
  /-- a bit that the format reserves is 1 -/
  | reservedBits
  /-- the byte is none of the sixteen named Instruction values -/
  | unnamedTag
  deriving DecidableEq, Repr

/-- What the decoder answers. -/
inductive Decoded where
  | instr (i : Instr)
  | rejected (why : Rejected)
  deriving DecidableEq, Repr

/-- The instruction, where there is one. -/
def Decoded.toOption : Decoded → Option Instr
  | .instr i => some i
  | .rejected _ => none

/-- Accept `i` when the reserved bits of its format are all 0, else reject by name (R77). -/
def whenClear (clear : Bool) (i : Instr) : Decoded :=
  if clear then .instr i else .rejected .reservedBits

/-- Bits 27:0 are 0, as format N asks (R71). -/
def clearN (w : Word) : Bool := w.extractLsb' 0 28 == 0#28
/-- Bits 27:8 are 0, as format B asks (R71). -/
def clearB (w : Word) : Bool := w.extractLsb' 8 20 == 0#20
/-- Bits 27:16 are 0, as formats H and A ask (R71). -/
def clearH (w : Word) : Bool := w.extractLsb' 16 12 == 0#12
/-- Bits 27:17 are 0, as format P asks (R71). -/
def clearP (w : Word) : Bool := w.extractLsb' 17 11 == 0#11

/-- Decode a command word: total on all `2^32` words (R79). -/
def decodeCommand (w : Word) : Decoded :=
  match (opField w).toNat with
  | 0x1 => whenClear (clearN w) .crcClr
  | 0x2 => whenClear (clearH w) (.crcLd (vField w))
  | 0x3 => whenClear (clearB w) (.crcAdv (bField w))
  | 0x4 => whenClear (clearN w) .crcFold
  | 0x5 => whenClear (clearN w) .s3Clr
  | 0x6 => whenClear (clearB w) (.s3Feed (bField w))
  | 0x7 => whenClear (clearN w) .s4Clr
  | 0x8 => whenClear (clearB w) (.s4Feed (bField w))
  | 0x9 => whenClear (clearN w) .pbClr
  | 0xA => whenClear (clearB w) (.pbPush (bField w))
  | 0xB => whenClear (clearH w) (.asm (idField w) (instField w))
  | 0xC => whenClear (clearN w) .hunt
  | 0xD => whenClear (clearP w) (.parse (ceField w) (capField w))
  | _ => .rejected .reservedOpcode

/-- Decode the Instruction byte of a frame: the sixteen named values (R213 to R228), the other 240 rejected
by name (R229). PRESUMED by the spec itself for all but READ and RETURN (log entry 13). -/
def decodeTag (b : Byte) : Decoded :=
  match b.toNat with
  | 0x01 => .instr .ping
  | 0x02 => .instr .read
  | 0x03 => .instr .write
  | 0x04 => .instr .regWrite
  | 0x05 => .instr .action
  | 0x06 => .instr .factoryReset
  | 0x08 => .instr .reboot
  | 0x10 => .instr .clear
  | 0x20 => .instr .controlTableBackup
  | 0x55 => .instr .returnStatus
  | 0x82 => .instr .syncRead
  | 0x83 => .instr .syncWrite
  | 0x8A => .instr .fastSyncRead
  | 0x92 => .instr .bulkRead
  | 0x93 => .instr .bulkWrite
  | 0x9A => .instr .fastBulkRead
  | _ => .rejected .unnamedTag

/-- Decode any bits. -/
def decode : Code → Decoded
  | .command w => decodeCommand w
  | .tag b => decodeTag b

/-! The encoder. -/

/-- Format N: the opcode and 28 zero bits (R71). -/
def encodeN (op : BitVec 4) : Code := .command (op ++ 0#28)
/-- Format B: the opcode, 20 zero bits and `b` (R71). -/
def encodeB (op : BitVec 4) (b : Byte) : Code := .command (op ++ 0#20 ++ b)
/-- Format H: the opcode, 12 zero bits and `v` (R71). -/
def encodeH (op : BitVec 4) (v : Half) : Code := .command (op ++ 0#12 ++ v)
/-- Format A: the opcode, 12 zero bits, `id` and `inst` (R71). -/
def encodeA (op : BitVec 4) (id inst : Byte) : Code := .command (op ++ 0#12 ++ id ++ inst)
/-- Format P: the opcode, 11 zero bits, `ce` and `cap` (R71). -/
def encodeP (op : BitVec 4) (ce : Bool) (cap : Half) : Code :=
  .command (op ++ 0#11 ++ BitVec.ofBool ce ++ cap)

/-- The bits that spell an instruction (R71, R72, R212). -/
def encode : Instr → Code
  | .crcClr => encodeN 0x1#4
  | .crcLd v => encodeH 0x2#4 v
  | .crcAdv b => encodeB 0x3#4 b
  | .crcFold => encodeN 0x4#4
  | .s3Clr => encodeN 0x5#4
  | .s3Feed b => encodeB 0x6#4 b
  | .s4Clr => encodeN 0x7#4
  | .s4Feed b => encodeB 0x8#4 b
  | .pbClr => encodeN 0x9#4
  | .pbPush b => encodeB 0xA#4 b
  | .asm id inst => encodeA 0xB#4 id inst
  | .hunt => encodeN 0xC#4
  | .parse ce cap => encodeP 0xD#4 ce cap
  | .ping => .tag 0x01#8
  | .read => .tag 0x02#8
  | .write => .tag 0x03#8
  | .regWrite => .tag 0x04#8
  | .action => .tag 0x05#8
  | .factoryReset => .tag 0x06#8
  | .reboot => .tag 0x08#8
  | .clear => .tag 0x10#8
  | .controlTableBackup => .tag 0x20#8
  | .returnStatus => .tag 0x55#8
  | .syncRead => .tag 0x82#8
  | .syncWrite => .tag 0x83#8
  | .fastSyncRead => .tag 0x8A#8
  | .bulkRead => .tag 0x92#8
  | .bulkWrite => .tag 0x93#8
  | .fastBulkRead => .tag 0x9A#8

/-- The bits of a table word, numbered as spec/opcode_table.json numbers them: a row of 8 bits is a wire tag
(R212), a row of 32 bits is a command word, which is presented whole (R70). No other width exists (R70); a value
that does not fit the width spells nothing. -/
def codeOfTableWord (nbits w : Nat) : Option Code :=
  match nbits with
  | 8 => if w < 2 ^ 8 then some (.tag (BitVec.ofNat 8 w)) else none
  | 32 => if w < 2 ^ 32 then some (.command (BitVec.ofNat 32 w)) else none
  | _ => none

/-- The instruction the decoder reads from a table word of `nbits` bits. -/
def decodeTableWord (nbits w : Nat) : Option Instr :=
  match codeOfTableWord nbits w with
  | some c => (decode c).toOption
  | none => none

end Sys2Proof
end

