-- ==== Sys2Proof/Machine/Fetch.lean ====
section
/-! DEFINITION. What the engine meets next. LDP-FC fetches nothing from memory (20_memory R66): at idle it accepts
the command word on the command port (30_encoding R70); at the two phases that handle a frame's Instruction byte
it meets a wire tag (log entry 6); in every other phase it performs the pending port event. -/

namespace Sys2Proof.Machine

/-- What a step of the engine is about. -/
inductive Fetched where
  /-- an instruction, and the state it runs in: the command word accepted, or the tag byte pulled -/
  | instr (i : Instr) (s : State)
  /-- a reserved command word has been accepted (R77) -/
  | reserved (s : State)
  /-- the pending port event, or nothing -/
  | event (s : State)
  deriving DecidableEq, Repr

/-- The command port takes a word whole (R70); what remains is still with the host. -/
def acceptWord (ws : List Word) (s : State) : State := { s with cmds := ws }

/-- The command word on the port, if the host presents one. -/
def fetchCommand (s : State) : Fetched :=
  match s.cmds with
  | [] => .event s
  | w :: ws =>
    match decode (.command w) with
    | .instr i => .instr i (acceptWord ws s)
    | .rejected _ => .reserved (acceptWord ws s)

/-- The Instruction byte SRC supplies at `P_INST`: a named tag runs on the state after its pull; any other byte,
or none, is left to the port event (R211, R229). -/
def fetchPulledTag (s : State) : Fetched :=
  match s.rx with
  | [] => .event s
  | b :: bs =>
    match decode (.tag b) with
    | .instr i => .instr i (pulled b bs s)
    | .rejected _ => .event s

/-- The Instruction byte ASM sends at `A_INST` (R210). -/
def fetchSentTag (s : State) : Fetched :=
  match decode (.tag s.opInst) with
  | .instr i => .instr i s
  | .rejected _ => .event s

/-- What the engine meets in state `s`. -/
def fetch (s : State) : Fetched :=
  if s.ph = .idle then fetchCommand s
  else if s.ph = .pInst then fetchPulledTag s
  else if s.ph = .aInst then fetchSentTag s
  else .event s

/-- The host presents `w` as the next command word of an idle engine that the environment lets go on. -/
def presentWord (w : Word) (s : State) : State :=
  { s with ph := .idle, cmds := w :: s.cmds, turns := .go :: s.turns }

/-- SRC supplies `b` as the next byte to a PARSE that waits for its Instruction byte. -/
def supplyInstructionByte (b : Byte) (s : State) : State :=
  { s with ph := .pInst, rx := b :: s.rx, turns := .go :: s.turns }

/-- Bits placed where the engine meets them next (log entry 9). -/
def placeCode (c : Code) (s : State) : State :=
  match c with
  | .command w => presentWord w s
  | .tag b => supplyInstructionByte b s

end Sys2Proof.Machine
end

