-- ==== Sys2Proof/Machine/Step.lean ====
section
/-! DEFINITION. One step of the machine: one command acceptance or one port event (70_reset R295), or a wait
(20_memory R54), or reset (70_reset R270, R271), as the environment's turn says. -/

namespace Sys2Proof.Machine

/-- What the engine does when nothing holds it. -/
def engine (s : State) : Result :=
  match fetch s with
  | .instr i t => exec i t
  | .reserved t => .next (refuse t)
  | .event t => portEvent t

/-- One step. Reset lands between two port events; a wait changes nothing but the turn. -/
def step (s : State) : Host.Outcome State Fault Refusal :=
  match s.turn with
  | .go => engine (dropTurn s)
  | .wait => .next (dropTurn s)
  | .reset => .next (resetBlock (dropTurn s))

/-- The instruction of a table word placed where `step` meets its next instruction: a 32-bit row as the command
word of an idle engine, an 8-bit row as the Instruction byte a PARSE pulls next (log entry 9). A value that is no
table word leaves the state as it is. -/
def State.withFetchWord (s : State) (nbits w : Nat) : State :=
  match codeOfTableWord nbits w with
  | some c => placeCode c s
  | none => s

end Sys2Proof.Machine
end

