-- ==== Sys2Proof/Safety.lean ====
section
/-! DEFINITION. The terms claims use: runs of the machine, the invariant of its states, the frames of the wire,
and what it means that two states differ only where no rule can look. -/

namespace Sys2Proof.Machine

/-- `n` steps from `s` end in `t`, none of them a fault or a refusal. -/
def Runs (n : Nat) (s t : State) : Prop := Host.Core.run Sys2Proof.core n s = .next t

/-- The environment completes every event it is offered: no turn is a wait or a reset (the fairness a model may
assume, R11; log entry 2). -/
def Unhindered (s : State) : Prop := s.turns = [] ∧ s.rest = .go

/-- The instructions of a list, one after another, each taken as accepted. -/
def execAll : List Instr → State → Result
  | [], s => .next s
  | i :: is, s =>
    match exec i s with
    | .next t => execAll is t
    | .fault r => .fault r
    | .refused r => .refused r

/-- The phases whose event is a `Pull(RX)` (R31). -/
def isPullPhase : Phase → Bool
  | .hRx | .pId | .pL0 | .pL1 | .pInst | .pErr | .pRaw | .pC0 | .pC1 => true
  | .idle | .aH0 | .aH1 | .aH2 | .aH3 | .aId | .aL0 | .aL1 | .aInst | .aPar | .aStf | .aC0 | .aC1 | .pOut => false

/-- The phases of ASM (R31), each a `Push(TX, ..)`. -/
def isAsmPhase : Phase → Bool
  | .aH0 | .aH1 | .aH2 | .aH3 | .aId | .aL0 | .aL1 | .aInst | .aPar | .aStf | .aC0 | .aC1 => true
  | .idle | .hRx | .pId | .pL0 | .pL1 | .pInst | .pErr | .pRaw | .pOut | .pC0 | .pC1 => false

/-- The phases of PARSE (R31). -/
def isParsePhase : Phase → Bool
  | .pId | .pL0 | .pL1 | .pInst | .pErr | .pRaw | .pOut | .pC0 | .pC1 => true
  | .idle | .aH0 | .aH1 | .aH2 | .aH3 | .aId | .aL0 | .aL1 | .aInst | .aPar | .aStf | .aC0 | .aC1 | .hRx => false

/-- A command of R72, as opposed to a wire tag. -/
def isCommand : Instr → Bool
  | .crcClr | .crcLd _ | .crcAdv _ | .crcFold | .s3Clr | .s3Feed _ | .s4Clr | .s4Feed _ => true
  | .pbClr | .pbPush _ | .asm _ _ | .hunt | .parse _ _ => true
  | .ping | .read | .write | .regWrite | .action | .factoryReset | .reboot | .clear => false
  | .controlTableBackup | .returnStatus | .syncRead | .syncWrite | .fastSyncRead => false
  | .bulkRead | .bulkWrite | .fastBulkRead => false

/-- What the spec promises of every state the block can be in. -/
structure Inv (s : State) : Prop where
  /-- `0 <= pwp <= PBUF_SIZE` (R26) -/
  pwp_le : s.pwp.toNat ≤ s.pbufSize.val
  /-- the buffer is in canonical form -/
  pbuf_wf : memoryWf s.pbuf = true
  /-- the buffer lists only indices that exist (R50) -/
  pbuf_in : ∀ (k : Nat) (v : Byte), (k, v) ∈ s.pbuf → k < s.pbufSize.val
  /-- kinds 0x83 to 0xFF are never produced (R240, R291) -/
  kind_made : (statKind s.stat).toNat ≤ 0x82
  /-- the alert flag comes only with a device-reported kind (R242) -/
  alert_device : statAlert s.stat = true → isDeviceKind (statKind s.stat) = true
  /-- a refusal leaves nothing else in STAT (R78) -/
  cmderr_alone : statCmderr s.stat = true → s.stat = 0x400#11
  /-- STAT is 0 while an operation runs (R29, R164, R181) -/
  busy_stat : s.ph ≠ .idle → s.stat = 0#11
  /-- a byte is to be dropped only while raw parameter bytes are pulled (R187, R192) -/
  skip_raw : s.skip = true → s.ph = .pRaw
  /-- a raw parameter byte is pulled only while some are left (R181) -/
  raw_left : s.ph = .pRaw → s.rem ≠ 0x0000#16
  /-- a parameter byte is read only below `pwp` (R62) -/
  param_left : s.ph = .aPar → s.idx.toNat < s.pwp.toNat
  /-- after a parameter byte the index has not passed `pwp` (R164) -/
  stuff_idx : s.ph = .aStf → s.idx.toNat ≤ s.pwp.toNat
  /-- ASM sends the CRC when all parameters are sent (R164, R167) -/
  crc_idx : s.ph = .aC0 ∨ s.ph = .aC1 → s.idx = s.pwp
  /-- the byte PARSE is about to put on PO is the byte of the last port event, a pull (R63) -/
  out_held : s.ph = .pOut → ∃ t, s.trace = t ++ [.pull s.held]

/-- The Length of an instruction frame with parameters `p` (R84, R165). -/
def frameLength (p : List Byte) : Half := BitVec.ofNat 16 (p.length + stuffCount p + 3)

/-- The bytes of an instruction frame before its CRC field (R80). -/
def frameBody (id inst : Byte) (p : List Byte) : List Byte :=
  header ++ [id, loByte (frameLength p), hiByte (frameLength p), inst] ++ stuff p

/-- The CRC of a frame (R89). -/
def frameCrc (id inst : Byte) (p : List Byte) : Half := fold 0x0000#16 (frameBody id inst p)

/-- An instruction frame (R80). -/
def instrFrame (id inst : Byte) (p : List Byte) : List Byte :=
  frameBody id inst p ++ [loByte (frameCrc id inst p), hiByte (frameCrc id inst p)]

/-- The first five bytes of a headerless status frame (R81, R82). -/
def headBytes (id : Byte) (len : Half) (inst err : Byte) : List Byte := [id, loByte len, hiByte len, inst, err]

/-- The CRC PARSE has accumulated after the bytes `bs` (R109, R188). -/
def parseCrc (bs : List Byte) : Half := fold hdrSeed bs

/-- STAT at the end of a PARSE that reached its CRC check (R188, R189, R245). -/
def verdictStat (received computed : Half) (err : Byte) : BitVec 11 :=
  if received ≠ computed then statOf 0x81#8 false false false
  else if errKind err ≠ 0x00#8 then statOf (errKind err) (errAlert err) false false
  else 0#11

/-- No byte of the list completes the pattern when it is fed from count `c`. -/
def sentryQuiet (n : Nat) (c : Fin n) : List Byte → Bool
  | [] => true
  | b :: bs => !(feed n c b).2 && sentryQuiet n (feed n c b).1 bs

/-- The port events of pulling the bytes `bs`. -/
def pulls (bs : List Byte) : List PortEvent := bs.map .pull

/-- The port events of PARSE's parameter loop on raw bytes: each kept byte is pulled and then pushed to PO, each
dropped byte is only pulled (R63, R187). -/
def rawEvents (c : Fin 3) (skip : Bool) : List Byte → List PortEvent
  | [] => []
  | b :: bs =>
    if skip then .pull b :: rawEvents c false bs
    else .pull b :: .pushPo b :: rawEvents (feed 3 c b).1 (feed 3 c b).2 bs

/-- Two states that differ at most in the bytes of `pbuf` at indices from `pwp` on, which no rule can observe
(R27, U1), both buffers in canonical form. -/
def AgreeBelowPwp (s t : State) : Prop :=
  memoryWf s.pbuf = true ∧ memoryWf t.pbuf = true ∧
  t = { s with pbuf := t.pbuf } ∧ ∀ a < s.pwp.toNat, memoryRead s.pbuf a = memoryRead t.pbuf a

end Sys2Proof.Machine
end

