-- ==== Sys2Proof/Certificates/Slice0/Obligations.lean ====
section
/-! DEFINITION. The statements for the provers. A docstring names the spec rule a statement formalises, and the log
entries (notes/assumptions) that its reading of the environment or of the model's own fields rests on. -/

open Sys2Proof Sys2Proof.Machine

/-! ## Encoding -/

/-- Decoding the encoding of any instruction gives it back, with every operand at every value (30_encoding R71 to
R73; 45_wire_tags R212). -/
def Obligations.DecodeOfEncodeIsIdentity : Prop :=
  ∀ i : Instr, decode (encode i) = .instr i

/-- Each word and each byte has at most one reading: what decodes to an instruction is that instruction's encoding
(30_encoding R71, R72, R79). -/
def Obligations.EncodeOfDecodeIsIdentity : Prop :=
  ∀ (c : Code) (i : Instr), decode c = .instr i → encode i = c

/-- R72: a word spells the row of a command exactly when `(w & mask) == match`; the thirteen rows are all the commands,
and the opcodes 0x0, 0xE and 0xF are none. -/
def Obligations.DecodeFollowsOpcodeMap : Prop :=
  commandRows.length = 13 ∧
  ∀ w : Word,
    (∀ r ∈ commandRows, (w &&& r.mask = r.bits ↔ ∃ i, decodeCommand w = .instr i ∧ i.mnemonic = r.mnemonic)) ∧
    (∀ i, decodeCommand w = .instr i → ∃ r ∈ commandRows, r.mnemonic = i.mnemonic) ∧
    (opField w = 0x0#4 ∨ opField w = 0xE#4 ∨ opField w = 0xF#4 → ∃ why, decodeCommand w = .rejected why)

/-- The decoder rejects exactly the reserved words of R77: a reserved opcode, or a reserved bit of the opcode's
format set; equivalently, a word that spells no row of R72. -/
def Obligations.DecodeRejectsReservedWords : Prop :=
  ∀ w : Word,
    ((∃ why, decodeCommand w = .rejected why) ↔
      (opField w = 0x0#4 ∨ opField w = 0xE#4 ∨ opField w = 0xF#4 ∨
        ∃ f, formatOf (opField w).toNat = some f ∧ w &&& 0x0FFFFFFF#32 &&& ~~~ f.operandMask ≠ 0#32)) ∧
    ((∃ why, decodeCommand w = .rejected why) ↔ ∀ r ∈ commandRows, w &&& r.mask ≠ r.bits)

/-- The worked encodings of R75. -/
def Obligations.WorkedEncodingsDecode : Prop :=
  ∀ p ∈ [(0x10000000#32, Instr.crcClr), (0x20000E28#32, .crcLd 0x0E28#16), (0x30000084#32, .crcAdv 0x84#8),
      (0x40000000#32, .crcFold), (0x50000000#32, .s3Clr), (0x600000FD#32, .s3Feed 0xFD#8),
      (0x70000000#32, .s4Clr), (0x800000FF#32, .s4Feed 0xFF#8), (0x90000000#32, .pbClr),
      (0xA0000084#32, .pbPush 0x84#8), (0xB0000102#32, .asm 0x01#8 0x02#8), (0xC0000000#32, .hunt),
      (0xD0010004#32, .parse true 0x0004#16), (0xD0000000#32, .parse false 0x0000#16)],
    decodeCommand p.1 = .instr p.2 ∧ encode p.2 = .command p.1

/-- The sixteen wire tags with their values (R213 to R228; log entry 13). -/
abbrev Sys2Proof.wireTagTable : List (Instr × Byte) :=
  [(.ping, 0x01#8), (.read, 0x02#8), (.write, 0x03#8), (.regWrite, 0x04#8), (.action, 0x05#8),
   (.factoryReset, 0x06#8), (.reboot, 0x08#8), (.clear, 0x10#8), (.controlTableBackup, 0x20#8),
   (.returnStatus, 0x55#8), (.syncRead, 0x82#8), (.syncWrite, 0x83#8), (.fastSyncRead, 0x8A#8),
   (.bulkRead, 0x92#8), (.bulkWrite, 0x93#8), (.fastBulkRead, 0x9A#8)]

/-- The sixteen tag bytes decode to their tags, and the other 240 values are no tag (45_wire_tags R212, R229). -/
def Obligations.WireTagBytesDecode : Prop :=
  (∀ p ∈ wireTagTable, decodeTag p.2 = .instr p.1 ∧ encode p.1 = .tag p.2) ∧
  (∀ b : Byte, (∀ p ∈ wireTagTable, p.2 ≠ b) → decodeTag b = .rejected .unnamedTag)

/-! ## The CRC engine -/

/-- The listing of R102, row `r` holding `T[8r]` to `T[8r+7]`. -/
def Sys2Proof.crcListing : List Half :=
  [0x0000#16, 0x8005#16, 0x800F#16, 0x000A#16, 0x801B#16, 0x001E#16, 0x0014#16, 0x8011#16,
   0x8033#16, 0x0036#16, 0x003C#16, 0x8039#16, 0x0028#16, 0x802D#16, 0x8027#16, 0x0022#16,
   0x8063#16, 0x0066#16, 0x006C#16, 0x8069#16, 0x0078#16, 0x807D#16, 0x8077#16, 0x0072#16,
   0x0050#16, 0x8055#16, 0x805F#16, 0x005A#16, 0x804B#16, 0x004E#16, 0x0044#16, 0x8041#16] ++
  [0x80C3#16, 0x00C6#16, 0x00CC#16, 0x80C9#16, 0x00D8#16, 0x80DD#16, 0x80D7#16, 0x00D2#16,
   0x00F0#16, 0x80F5#16, 0x80FF#16, 0x00FA#16, 0x80EB#16, 0x00EE#16, 0x00E4#16, 0x80E1#16,
   0x00A0#16, 0x80A5#16, 0x80AF#16, 0x00AA#16, 0x80BB#16, 0x00BE#16, 0x00B4#16, 0x80B1#16,
   0x8093#16, 0x0096#16, 0x009C#16, 0x8099#16, 0x0088#16, 0x808D#16, 0x8087#16, 0x0082#16] ++
  [0x8183#16, 0x0186#16, 0x018C#16, 0x8189#16, 0x0198#16, 0x819D#16, 0x8197#16, 0x0192#16,
   0x01B0#16, 0x81B5#16, 0x81BF#16, 0x01BA#16, 0x81AB#16, 0x01AE#16, 0x01A4#16, 0x81A1#16,
   0x01E0#16, 0x81E5#16, 0x81EF#16, 0x01EA#16, 0x81FB#16, 0x01FE#16, 0x01F4#16, 0x81F1#16,
   0x81D3#16, 0x01D6#16, 0x01DC#16, 0x81D9#16, 0x01C8#16, 0x81CD#16, 0x81C7#16, 0x01C2#16] ++
  [0x0140#16, 0x8145#16, 0x814F#16, 0x014A#16, 0x815B#16, 0x015E#16, 0x0154#16, 0x8151#16,
   0x8173#16, 0x0176#16, 0x017C#16, 0x8179#16, 0x0168#16, 0x816D#16, 0x8167#16, 0x0162#16,
   0x8123#16, 0x0126#16, 0x012C#16, 0x8129#16, 0x0138#16, 0x813D#16, 0x8137#16, 0x0132#16,
   0x0110#16, 0x8115#16, 0x811F#16, 0x011A#16, 0x810B#16, 0x010E#16, 0x0104#16, 0x8101#16] ++
  [0x8303#16, 0x0306#16, 0x030C#16, 0x8309#16, 0x0318#16, 0x831D#16, 0x8317#16, 0x0312#16,
   0x0330#16, 0x8335#16, 0x833F#16, 0x033A#16, 0x832B#16, 0x032E#16, 0x0324#16, 0x8321#16,
   0x0360#16, 0x8365#16, 0x836F#16, 0x036A#16, 0x837B#16, 0x037E#16, 0x0374#16, 0x8371#16,
   0x8353#16, 0x0356#16, 0x035C#16, 0x8359#16, 0x0348#16, 0x834D#16, 0x8347#16, 0x0342#16] ++
  [0x03C0#16, 0x83C5#16, 0x83CF#16, 0x03CA#16, 0x83DB#16, 0x03DE#16, 0x03D4#16, 0x83D1#16,
   0x83F3#16, 0x03F6#16, 0x03FC#16, 0x83F9#16, 0x03E8#16, 0x83ED#16, 0x83E7#16, 0x03E2#16,
   0x83A3#16, 0x03A6#16, 0x03AC#16, 0x83A9#16, 0x03B8#16, 0x83BD#16, 0x83B7#16, 0x03B2#16,
   0x0390#16, 0x8395#16, 0x839F#16, 0x039A#16, 0x838B#16, 0x038E#16, 0x0384#16, 0x8381#16] ++
  [0x0280#16, 0x8285#16, 0x828F#16, 0x028A#16, 0x829B#16, 0x029E#16, 0x0294#16, 0x8291#16,
   0x82B3#16, 0x02B6#16, 0x02BC#16, 0x82B9#16, 0x02A8#16, 0x82AD#16, 0x82A7#16, 0x02A2#16,
   0x82E3#16, 0x02E6#16, 0x02EC#16, 0x82E9#16, 0x02F8#16, 0x82FD#16, 0x82F7#16, 0x02F2#16,
   0x02D0#16, 0x82D5#16, 0x82DF#16, 0x02DA#16, 0x82CB#16, 0x02CE#16, 0x02C4#16, 0x82C1#16] ++
  [0x8243#16, 0x0246#16, 0x024C#16, 0x8249#16, 0x0258#16, 0x825D#16, 0x8257#16, 0x0252#16,
   0x0270#16, 0x8275#16, 0x827F#16, 0x027A#16, 0x826B#16, 0x026E#16, 0x0264#16, 0x8261#16,
   0x0220#16, 0x8225#16, 0x822F#16, 0x022A#16, 0x823B#16, 0x023E#16, 0x0234#16, 0x8231#16,
   0x8213#16, 0x0216#16, 0x021C#16, 0x8219#16, 0x0208#16, 0x820D#16, 0x8207#16, 0x0202#16]

/-- One round of R102's construction, written out here from the rule. -/
def Sys2Proof.crcRound (c : Half) : Half :=
  if c.getLsbD 15 = true then ((c <<< 1) &&& 0xFFFF#16) ^^^ 0x8005#16 else (c <<< 1) &&& 0xFFFF#16

/-- R102: each entry of the table is eight rounds from `i << 8`, and the 256 values are the listing. -/
def Obligations.CrcTableIsTheListing : Prop :=
  crcListing.length = 256 ∧
  (∀ i : Fin 256, crcListing[i.val]? = some (crcTable (BitVec.ofFin i))) ∧
  (∀ i : Byte, crcTable i = crcRound^[8] (i.setWidth 16 <<< 8))

/-- R107: `Fold` takes the bytes in order, first byte first. -/
def Obligations.FoldTakesBytesInOrder : Prop :=
  (∀ s : Half, fold s [] = s) ∧
  (∀ (s : Half) (b : Byte) (bs : List Byte), fold s (b :: bs) = fold (adv s b) bs) ∧
  (∀ (s : Half) (x y : List Byte), fold s (x ++ y) = fold (fold s x) y)

/-- R108: the laws and corner values of `Adv`. -/
def Obligations.CrcStepLaws : Prop :=
  adv 0x0000#16 0x00#8 = 0x0000#16 ∧
  (∀ b : Byte, adv 0x0000#16 b = crcTable b) ∧
  adv 0x0000#16 0x01#8 = 0x8005#16 ∧ adv 0x0000#16 0xFF#8 = 0x0202#16 ∧
  (∀ (s s' : Half) (b b' : Byte), loByte s = loByte s' → hiByte s ^^^ b = hiByte s' ^^^ b' → adv s b = adv s' b') ∧
  adv 0x0100#16 0x01#8 = 0x0000#16 ∧
  (∀ s : Half, hiByte (s <<< 8) = loByte s) ∧
  adv 0x00FF#16 0x00#8 = 0xFF00#16 ∧
  adv 0xFFFF#16 0xFF#8 = 0xFF00#16 ∧ adv 0xFFFF#16 0x00#8 = 0xFD02#16 ∧
  adv 0x8000#16 0x00#8 = 0x8303#16 ∧ crcTable 0x80#8 = 0x8303#16 ∧
  adv 0x1234#16 0x56#8 = 0x3598#16 ∧
  (∀ b : Byte, Function.Bijective fun s : Half => adv s b) ∧
  (∀ (s s' : Half) (b b' : Byte), adv (s ^^^ s') (b ^^^ b') = adv s b ^^^ adv s' b') ∧
  (∀ s : Half, fold s [hiByte s, loByte s] = 0x0000#16) ∧
  (∃ bs : List Byte, fold 0x0000#16 (bs ++ [loByte (fold 0x0000#16 bs), hiByte (fold 0x0000#16 bs)]) ≠ 0x0000#16)

/-- One changed byte changes the CRC, whatever stands before and after it (44_parse R188, 40_crc R108, R101): the
accumulators of two byte lists that differ in exactly one byte differ. -/
def Obligations.CrcSeesOneChangedByte : Prop :=
  ∀ (s : Half) (xs ys : List Byte) (b b' : Byte), b ≠ b' → fold s (xs ++ b :: ys) ≠ fold s (xs ++ b' :: ys)

/-- The known answers of R8 and R101: the header's CRC, the two worked frames of the source, the check value. -/
def Obligations.KnownFrameCrcs : Prop :=
  fold 0x0000#16 header = 0x0E28#16 ∧ hdrSeed = 0x0E28#16 ∧
  fold 0x0000#16 [0xFF#8, 0xFF#8, 0xFD#8, 0x00#8, 0x01#8, 0x07#8, 0x00#8, 0x02#8, 0x84#8, 0x00#8, 0x04#8, 0x00#8]
    = 0x151D#16 ∧
  fold 0x0000#16 [0xFF#8, 0xFF#8, 0xFD#8, 0x00#8, 0x01#8, 0x08#8, 0x00#8, 0x55#8, 0x00#8, 0xA6#8, 0x00#8, 0x00#8, 0x00#8]
    = 0xC08C#16 ∧
  fold 0x0000#16 [0x31#8, 0x32#8, 0x33#8, 0x34#8, 0x35#8, 0x36#8, 0x37#8, 0x38#8, 0x39#8] = 0xFEE8#16

/-! ## The sentry and stuffing -/

/-- R122: the complete transition tables of both sentries, and where the stay arm fires. -/
def Obligations.SentryTransitionTables : Prop :=
  (∀ b : Byte, feed 3 0 b = if b = 0xFF#8 then (1, false) else (0, false)) ∧
  (∀ b : Byte, feed 3 1 b = if b = 0xFF#8 then (2, false) else (0, false)) ∧
  (∀ b : Byte, feed 3 2 b =
    if b = 0xFF#8 then (2, false) else if b = 0xFD#8 then (0, true) else (0, false)) ∧
  (∀ b : Byte, feed 4 0 b = if b = 0xFF#8 then (1, false) else (0, false)) ∧
  (∀ b : Byte, feed 4 1 b = if b = 0xFF#8 then (2, false) else (0, false)) ∧
  (∀ b : Byte, feed 4 2 b =
    if b = 0xFF#8 then (2, false) else if b = 0xFD#8 then (3, false) else (0, false)) ∧
  (∀ b : Byte, feed 4 3 b = if b = 0x00#8 then (0, true) else (0, false)) ∧
  (∀ c : Nat, c < 3 → ((headerByte c ≠ 0xFF#8 ∧ headerByte 0 = 0xFF#8) ↔ c = 2))

/-- R123: fed from a clear sentry, the 3-byte sentry reports a match on a byte exactly when that byte and the two
before it are `FF FF FD`; and no later byte can use one of those three again, since the count is then 0. -/
def Obligations.StuffingSentryIsExact : Prop :=
  ∀ (p : List Byte) (b : Byte),
    ((feed 3 (feedAll 3 0 p) b).2 = true ↔ [0xFF#8, 0xFF#8, 0xFD#8] <:+ p ++ [b]) ∧
    ((feed 3 (feedAll 3 0 p) b).2 = true → (feed 3 (feedAll 3 0 p) b).1 = 0)

/-- R124: the 4-byte sentry reports no false match, misses a header exactly when its first `FF` is fed at count 3,
and count 3 means that `FF FF FD` was just fed. -/
def Obligations.HeaderSentryMissesOneCase : Prop :=
  (∀ (p : List Byte) (b : Byte), (feed 4 (feedAll 4 0 p) b).2 = true → header <:+ p ++ [b]) ∧
  (∀ q : List Byte, (feed 4 (feedAll 4 0 (q ++ [0xFF#8, 0xFF#8, 0xFD#8])) 0x00#8).2 = false ↔ feedAll 4 0 q = 3) ∧
  (∀ q : List Byte, feedAll 4 0 q = 3 → [0xFF#8, 0xFF#8, 0xFD#8] <:+ q)

/-- The length of the stuffed form and the bound on the number of stuffing bytes (42_stuffing R140, R141). -/
def Obligations.StuffedLength : Prop :=
  ∀ p : List Byte, (stuff p).length = p.length + stuffCount p ∧ stuffCount p ≤ p.length / 3

/-- R143: the header never appears in the stuffed form of any byte list; the other fields of a frame can combine into
one. -/
def Obligations.StuffedRegionHasNoHeader : Prop :=
  (∀ p : List Byte, ¬ [0xFF#8, 0xFF#8, 0xFD#8, 0x00#8] <:+: stuff p) ∧
  ∃ id inst p, [0xFF#8, 0xFF#8, 0xFD#8, 0x00#8] <:+: (instrFrame id inst p).drop 4

/-- R144: destuffing undoes stuffing, and stuffing puts `0xFD` after every `FF FF FD` of the parameters; the other
direction is false. -/
def Obligations.DestuffUndoesStuff : Prop :=
  (∀ p : List Byte, destuff (stuff p) = p) ∧
  (∀ p : List Byte, [0xFF#8, 0xFF#8, 0xFD#8] <:+: p → [0xFF#8, 0xFF#8, 0xFD#8, 0xFD#8] <:+: stuff p) ∧
  stuff (destuff [0xFF#8, 0xFF#8, 0xFD#8, 0x00#8]) ≠ [0xFF#8, 0xFF#8, 0xFD#8, 0x00#8]

/-- The bounds of R191 on the number of logical bytes of a raw parameter field. -/
def Obligations.DestuffedLengthBounds : Prop :=
  ∀ r : List Byte, (destuff r).length ≤ r.length ∧ r.length - r.length / 4 ≤ (destuff r).length

/-! ## The commands -/

/-- R103, R104, R105: CRC_CLR, CRC_LD, CRC_ADV: their words, their effect at idle with STAT all 0, the words they are
refused as, and the rules' examples. -/
def Obligations.CrcRegisterCommands : Prop :=
  encode .crcClr = .command 0x10000000#32 ∧
  (∀ v : Half, encode (.crcLd v) = .command (0x20000000#32 ||| v.setWidth 32)) ∧
  (∀ b : Byte, encode (.crcAdv b) = .command (0x30000000#32 ||| b.setWidth 32)) ∧
  (∀ s : State, s.ph = .idle →
    exec .crcClr s = .next { s with stat := 0#11, crc := 0x0000#16 } ∧
    (∀ v, exec (.crcLd v) s = .next { s with stat := 0#11, crc := v }) ∧
    (∀ b, exec (.crcAdv b) s = .next { s with stat := 0#11, crc := adv s.crc b })) ∧
  (∀ w : Word, (opField w = 0x1#4 ∧ w.extractLsb' 0 28 ≠ 0#28) ∨ (opField w = 0x2#4 ∧ w.extractLsb' 16 12 ≠ 0#12) ∨
    (opField w = 0x3#4 ∧ w.extractLsb' 8 20 ≠ 0#20) → decodeCommand w = .rejected .reservedBits) ∧
  adv 0x1234#16 0x56#8 = 0x3598#16 ∧
  [0xFF#8, 0xFF#8, 0xFD#8, 0x00#8, 0x01#8, 0x07#8, 0x00#8, 0x02#8, 0x84#8, 0x00#8, 0x04#8, 0x00#8].scanl adv 0x0000#16 =
    [0x0000#16, 0x0202#16, 0x800D#16, 0x0C0E#16, 0x0E28#16, 0x2822#16, 0xA2E1#16, 0x62CF#16, 0xCE40#16, 0xC1BF#16,
     0x3D85#16, 0x8596#16, 0x151D#16]

/-- R106: CRC_FOLD folds `pbuf[0..pwp-1]` as it is and changes nothing else (with `pwp <= PBUF_SIZE`, R26); with
`pwp = 0` the CRC is unchanged. -/
def Obligations.CrcFoldCommand : Prop :=
  encode .crcFold = .command 0x40000000#32 ∧
  (∀ s : State, s.ph = .idle → s.pwp.toNat ≤ s.pbufSize.val →
    exec .crcFold s =
      .next { s with stat := 0#11, crc := fold s.crc ((List.range s.pwp.toNat).map (memoryRead s.pbuf)) } ∧
    (s.pwp = 0x0000#16 → exec .crcFold s = .next { s with stat := 0#11 })) ∧
  fold 0x0000#16 [0x84#8, 0x00#8, 0x04#8, 0x00#8] = 0xC83F#16 ∧
  fold 0xCE40#16 [0x84#8, 0x00#8, 0x04#8, 0x00#8] = 0x151D#16

/-- R125 to R128: S3_CLR, S3_FEED, S4_CLR, S4_FEED: their words, their effect at idle with STAT 0 but for the match
bit, the words they are refused as. -/
def Obligations.SentryCommands : Prop :=
  encode .s3Clr = .command 0x50000000#32 ∧ encode .s4Clr = .command 0x70000000#32 ∧
  (∀ b : Byte, encode (.s3Feed b) = .command (0x60000000#32 ||| b.setWidth 32) ∧
    encode (.s4Feed b) = .command (0x80000000#32 ||| b.setWidth 32)) ∧
  (∀ s : State, s.ph = .idle →
    exec .s3Clr s = .next { s with stat := 0#11, s3 := 0 } ∧
    exec .s4Clr s = .next { s with stat := 0#11, s4 := 0 } ∧
    (∀ b, exec (.s3Feed b) s = .next { s with
      stat := if (feed 3 s.s3 b).2 then 0x200#11 else 0#11, s3 := (feed 3 s.s3 b).1 }) ∧
    (∀ b, exec (.s4Feed b) s = .next { s with
      stat := if (feed 4 s.s4 b).2 then 0x200#11 else 0#11, s4 := (feed 4 s.s4 b).1 })) ∧
  feed 3 0 0xFF#8 = (1, false) ∧ feed 3 1 0xFF#8 = (2, false) ∧ feed 3 2 0xFF#8 = (2, false) ∧
  feed 3 2 0xFD#8 = (0, true) ∧
  feed 4 0 0xFF#8 = (1, false) ∧ feed 4 1 0xFF#8 = (2, false) ∧ feed 4 2 0xFF#8 = (2, false) ∧
  feed 4 2 0xFD#8 = (3, false) ∧ feed 4 3 0x00#8 = (0, true) ∧ feed 4 3 0xFF#8 = (0, false) ∧
  (∀ w : Word, ((opField w = 0x5#4 ∨ opField w = 0x7#4) ∧ w.extractLsb' 0 28 ≠ 0#28) ∨
    ((opField w = 0x6#4 ∨ opField w = 0x8#4) ∧ w.extractLsb' 8 20 ≠ 0#20) →
    decodeCommand w = .rejected .reservedBits)

/-- R160: PB_CLR sets `pwp` to 0 and erases no byte; the parameter sequence is then empty. -/
def Obligations.PbClrCommand : Prop :=
  encode .pbClr = .command 0x90000000#32 ∧
  (∀ s : State, s.ph = .idle → exec .pbClr s = .next { s with stat := 0#11, pwp := 0x0000#16 }) ∧
  (∀ s : State, params { s with stat := 0#11, pwp := 0x0000#16 } = some []) ∧
  (∀ w : Word, opField w = 0x9#4 → w.extractLsb' 0 28 ≠ 0#28 → decodeCommand w = .rejected .reservedBits)

/-- R161: PB_PUSH writes the byte at `pwp` and moves `pwp` on without wrapping, every other index reading as before;
with the buffer full it is refused and only STAT changes. -/
def Obligations.PbPushCommand : Prop :=
  (∀ b : Byte, encode (.pbPush b) = .command (0xA0000000#32 ||| b.setWidth 32)) ∧
  (∀ (s : State) (b : Byte), s.ph = .idle →
    (s.pwp.toNat = s.pbufSize.val → exec (.pbPush b) s = .next { s with stat := 0x400#11 }) ∧
    (s.pwp.toNat < s.pbufSize.val → memoryWf s.pbuf = true →
      ∃ t, exec (.pbPush b) s = .next t ∧
        t = { s with stat := 0#11, pwp := t.pwp, pbuf := t.pbuf } ∧
        t.pwp.toNat = s.pwp.toNat + 1 ∧ memoryWf t.pbuf = true ∧
        ∀ a, memoryRead t.pbuf a = if a = s.pwp.toNat then b else memoryRead s.pbuf a)) ∧
  (∀ s : State, s.ph = .idle → memoryWf s.pbuf = true → 4 ≤ s.pbufSize.val →
    ∃ t, execAll [.pbClr, .pbPush 0x84#8, .pbPush 0x00#8, .pbPush 0x04#8, .pbPush 0x00#8] s = .next t ∧
      params t = some [0x84#8, 0x00#8, 0x04#8, 0x00#8] ∧ t.pwp = 4) ∧
  (∀ w : Word, opField w = 0xA#4 → w.extractLsb' 8 20 ≠ 0#20 → decodeCommand w = .rejected .reservedBits)

/-- ASM, HUNT and PARSE at acceptance (43_assemble R164, 41_sentry R129, 44_parse R181): what they set before their
first port event (log entry 12), the operands kept beside `ph` (log entry 5). -/
def Obligations.MultiEventCommandsStart : Prop :=
  ∀ s : State, s.ph = .idle →
    (∀ id inst : Byte, s.pwp.toNat ≤ s.pbufSize.val →
      exec (.asm id inst) s = .next { s with
        stat := 0#11, crc := 0x0000#16, alen := frameLength (pbufBytes s.pbuf s.pwp.toNat),
        opId := id, opInst := inst, ph := .aH0 }) ∧
    exec .hunt s = .next { s with stat := 0#11, ph := .hRx } ∧
    (∀ (ce : Bool) (cap : Half), exec (.parse ce cap) s = .next { s with
      stat := 0#11, rid := 0x00#8, rlen := 0x0000#16, rinst := 0x00#8, rerr := 0x00#8, rem := 0x0000#16,
      rcrc := 0x0000#16, nlog := 0x0000#16, skip := false, crc := 0x0E28#16, s3 := 0,
      opCe := ce, opCap := cap, ph := .pId })

/-- The wire tags at the two events that handle an Instruction byte (45_wire_tags R210, R211): received into `rinst`
or sent on TX, accumulated, whatever the tag. That a tag is an instruction that runs at these events is the model's
reading (log entry 6); step 3 of ASM is done in the event `A_INST` (43_assemble R164; log entry 12). -/
def Obligations.WireTagsAtInstructionByte : Prop :=
  ∀ p ∈ wireTagTable, ∀ s : State,
    (s.ph = .pInst → exec p.1 s = .next { s with rinst := p.2, crc := adv s.crc p.2, ph := .pErr }) ∧
    (s.ph = .aInst → exec p.1 s = .next { s with
      trace := s.trace ++ [.pushTx p.2], crc := adv s.crc p.2, s3 := 0, idx := 0x0000#16,
      ph := if 0 < s.pwp.toNat then .aPar else .aC0 })

/-- Where a wire tag does not run (log entry 7): at idle its byte, as a command word, has the reserved opcode 0x0 and
is refused (30_encoding R77, R78); at any other port event it is held. -/
def Obligations.WireTagsElsewhere : Prop :=
  ∀ p ∈ wireTagTable, ∀ s : State,
    (s.ph = .idle → decodeCommand (p.2.setWidth 32) = .rejected .reservedOpcode ∧
      exec p.1 s = .next { s with stat := 0x400#11 }) ∧
    (s.ph ≠ .idle → s.ph ≠ .pInst → s.ph ≠ .aInst → exec p.1 s = .next s)

/-- What STAT held before does not matter: every accepted command first sets `STAT <- 0` (10_state R29). For the
sixteen wire tags, which are no commands, this is the model's choice that a tag run at idle is refused (log entry 7). -/
def Obligations.AcceptanceClearsStat : Prop :=
  ∀ (i : Instr) (s : State) (v : BitVec 11), s.ph = .idle → exec i { s with stat := v } = exec i s

/-- STAT right after acceptance (60_exceptions R246, 30_encoding R78; for the match bit 10_state R28, R29 and 41_sentry
R126, R128): no kind and no alert ever, a match only from the two feeding commands, `cmderr` only from a full buffer or
from what is no command (a wire tag run at idle, the model's choice, log entry 7). -/
def Obligations.AcceptedCommandsReportNoKind : Prop :=
  ∀ (i : Instr) (s t : State), s.ph = .idle → exec i s = .next t →
    statKind t.stat = 0x00#8 ∧ statAlert t.stat = false ∧
    (statMatch t.stat = true → (∃ b, i = .s3Feed b) ∨ (∃ b, i = .s4Feed b)) ∧
    (statCmderr t.stat = true → ((∃ b, i = .pbPush b) ∧ s.pwp.toNat = s.pbufSize.val) ∨ isCommand i = false)

/-- While an operation runs the command port is not ready (10_state R33): a command is held with nothing changed, and
a step takes no word from the host (log entries 1 and 8), a step in which reset is asserted included: that the words
presented stay with the host over a reset is the model's reading (log entries 2 and 15). -/
def Obligations.BusyEngineHoldsCommands : Prop :=
  ∀ s : State, s.ph ≠ .idle →
    (∀ i, isCommand i = true → exec i s = .next s) ∧
    (∀ t, step s = .next t → t.cmds = s.cmds)

/-! ## The step -/

/-- A step at idle runs the command word on the port: exec of what it decodes to, on the state with the word and the
turn taken (log entries 1 and 2). -/
def Obligations.StepRunsAcceptedCommand : Prop :=
  ∀ (s : State) (w : Word) (ws : List Word) (i : Instr),
    s.turn = .go → s.ph = .idle → s.cmds = w :: ws → decodeCommand w = .instr i →
    step s = exec i { s with cmds := ws, turns := s.turns.tail }

/-- A step at `P_INST` pulls a byte and runs the tag it names, a step at `A_INST` runs the tag that ASM was given; a
byte that is no tag is handled the same way (45_wire_tags R210, R211, R229). What the two events do is 44_parse R181 and
43_assemble R164 (log entries 1, 2, 6 and 12). -/
def Obligations.StepHandlesInstructionByte : Prop :=
  ∀ s : State, s.turn = .go →
    (∀ (b : Byte) (bs : List Byte), s.ph = .pInst → s.rx = b :: bs →
      (∀ i, decodeTag b = .instr i →
        step s = exec i { s with rx := bs, trace := s.trace ++ [.pull b], turns := s.turns.tail }) ∧
      step s = .next { s with
        rx := bs, trace := s.trace ++ [.pull b], turns := s.turns.tail,
        rinst := b, crc := adv s.crc b, ph := .pErr }) ∧
    (s.ph = .aInst →
      (∀ i, decodeTag s.opInst = .instr i → step s = exec i { s with turns := s.turns.tail }) ∧
      step s = .next { s with
        trace := s.trace ++ [.pushTx s.opInst], turns := s.turns.tail,
        crc := adv s.crc s.opInst, s3 := 0, idx := 0x0000#16, ph := if 0 < s.pwp.toNat then .aPar else .aC0 })

/-- An instruction placed by `withFetchWord` is the one the very next step runs (log entry 9). -/
def Obligations.PlacedWordRunsNext : Prop :=
  ∀ (s : State) (w : Nat) (i : Instr),
    (decodeTableWord 32 w = some i → step (s.withFetchWord 32 w) = exec i { s with ph := .idle }) ∧
    (decodeTableWord 8 w = some i →
      step (s.withFetchWord 8 w) =
        exec i { s with ph := .pInst, trace := s.trace ++ [.pull (BitVec.ofNat 8 w)] })

/-- A reserved command word is refused (30_encoding R77, R78): `STAT = 0x400`, no other register, no buffer byte and
no port touched, the port ready again (log entries 1 and 2). -/
def Obligations.ReservedWordIsRefused : Prop :=
  ∀ (s : State) (w : Word) (ws : List Word),
    s.turn = .go → s.ph = .idle → s.cmds = w :: ws → (∀ r ∈ commandRows, w &&& r.mask ≠ r.bits) →
    step s = .next { s with stat := 0x400#11, cmds := ws, turns := s.turns.tail }

/-- Nothing else in LDP-FC sets `cmderr` (30_encoding R78): a step that leaves it set had it set already and left STAT
alone, or refused a reserved word, or refused a push on a full buffer (log entries 1 and 2). -/
def Obligations.CmderrMarksRefusalsOnly : Prop :=
  ∀ s t : State, Inv s → step s = .next t → statCmderr t.stat = true →
    t.stat = s.stat ∨
    (s.ph = .idle ∧ ∃ w ws, s.cmds = w :: ws ∧
      ((∃ why, decodeCommand w = .rejected why) ∨
        ((∃ b, decodeCommand w = .instr (.pbPush b)) ∧ s.pwp.toNat = s.pbufSize.val)))

/-- Reset at any time, also while an operation runs (70_reset R270, R271 with 10_state R37): every register at its
reset value, the port idle, nothing in the environment undone (log entries 2 and 15). -/
def Obligations.ResetTurnResetsTheBlock : Prop :=
  ∀ s : State, s.turn = .reset → ∃ t, step s = .next t ∧
    hostView t = some {
      crc := 0x0000#16, s3 := 0, s4 := 0, pwp := 0x0000#16, alen := 0x0000#16, idx := 0x0000#16, rid := 0x00#8,
      rlen := 0x0000#16, rinst := 0x00#8, rerr := 0x00#8, rem := 0x0000#16, rcrc := 0x0000#16, nlog := 0x0000#16,
      skip := false, stat := 0#11, ph := .idle } ∧
    t.ph = .idle ∧ t.busy = false ∧
    t.trace = s.trace ∧ t.rx = s.rx ∧ t.cmds = s.cmds ∧ t.pbufSize = s.pbufSize

/-- R37: the values after reset. -/
def Obligations.ResetValues : Prop :=
  State.reset.crc = 0x0000#16 ∧ State.reset.s3 = 0 ∧ State.reset.s4 = 0 ∧ State.reset.pwp = 0x0000#16 ∧
  State.reset.alen = 0x0000#16 ∧ State.reset.idx = 0x0000#16 ∧ State.reset.rid = 0x00#8 ∧
  State.reset.rlen = 0x0000#16 ∧ State.reset.rinst = 0x00#8 ∧ State.reset.rerr = 0x00#8 ∧
  State.reset.rem = 0x0000#16 ∧ State.reset.rcrc = 0x0000#16 ∧ State.reset.nlog = 0x0000#16 ∧
  State.reset.skip = false ∧ State.reset.stat = 0#11 ∧ State.reset.ph = .idle ∧ State.reset.busy = false

/-- A waiting event changes nothing (20_memory R54, R55): a turn that waits uses up only the turn; with nothing in RX
the block stays in the phase of its pending pull for ever (log entries 1 and 2). -/
def Obligations.WaitingChangesNothing : Prop :=
  (∀ s : State, s.turn = .wait → step s = .next { s with turns := s.turns.tail }) ∧
  (∀ (s : State) (n : Nat), Unhindered s → isPullPhase s.ph = true → s.rx = [] → Runs n s s)

/-- A step performs at most one port event, and no event is ever taken back (20_memory R60, R61, R63), not even by a reset
(70_reset R270; log entries 1, 2 and 15). -/
def Obligations.OneIrrevocableEventPerStep : Prop :=
  ∀ s t : State, step s = .next t → t.trace = s.trace ∨ ∃ e, t.trace = s.trace ++ [e]

/-- Each `Pull` consumes exactly the next byte of RX and nothing else consumes one (20_memory R52), not even a reset
(70_reset R270; log entries 1, 2 and 15). -/
def Obligations.PullsConsumeRxInOrder : Prop :=
  ∀ s t : State, step s = .next t → pulledBytes t.trace ++ t.rx = pulledBytes s.trace ++ s.rx

/-- Who uses which port (20_memory R50): TX only ASM, PO only PARSE, RX only HUNT and PARSE; a reset uses none
(70_reset R270; log entries 1, 2 and 15). -/
def Obligations.PortsBelongToOperations : Prop :=
  ∀ s t : State, step s = .next t →
    (txBytes t.trace ≠ txBytes s.trace → isAsmPhase s.ph = true) ∧
    (poBytes t.trace ≠ poBytes s.trace → s.ph = .pOut) ∧
    (t.rx ≠ s.rx → s.ph = .hRx ∨ isParsePhase s.ph = true)

/-- `s4` is written only by S4_CLR, S4_FEED and HUNT (10_state R22), and by reset; ASM and PARSE never touch it
(log entries 1 and 2). -/
def Obligations.HeaderCountKeptByOthers : Prop :=
  ∀ s t : State, step s = .next t → t.s4 ≠ s.s4 →
    s.turn = .reset ∨ s.ph = .hRx ∨
    (s.ph = .idle ∧ ∃ w ws i, s.cmds = w :: ws ∧ decodeCommand w = .instr i ∧ (i = .s4Clr ∨ ∃ b, i = .s4Feed b))

/-- The parser's registers keep their values until the next PARSE or reset (10_state R25, 70_reset R281; log entries 1
and 2). -/
def Obligations.ParserRegistersLast : Prop :=
  ∀ s t : State, step s = .next t → s.turn ≠ .reset → isParsePhase s.ph = false →
    (¬ ∃ w ws ce cap, s.ph = .idle ∧ s.cmds = w :: ws ∧ decodeCommand w = .instr (.parse ce cap)) →
    t.rid = s.rid ∧ t.rlen = s.rlen ∧ t.rinst = s.rinst ∧ t.rerr = s.rerr ∧ t.rem = s.rem ∧ t.rcrc = s.rcrc ∧
    t.nlog = s.nlog ∧ t.skip = s.skip

/-- `pbuf` is written only by PB_PUSH and only at index `pwp`; `pwp` changes only by PB_CLR and PB_PUSH (10_state R26,
R27, 20_memory R50, R51), reset apart (log entries 1 and 2). -/
def Obligations.BufferWrittenOnlyByPush : Prop :=
  ∀ s t : State, step s = .next t → s.turn ≠ .reset →
    ((∃ a, memoryRead t.pbuf a ≠ memoryRead s.pbuf a) ∨ t.pwp ≠ s.pwp →
      s.ph = .idle ∧ ∃ w ws i, s.cmds = w :: ws ∧ decodeCommand w = .instr i ∧ (i = .pbClr ∨ ∃ b, i = .pbPush b)) ∧
    (memoryWf s.pbuf = true → ∀ a, memoryRead t.pbuf a ≠ memoryRead s.pbuf a →
      a = s.pwp.toNat ∧ ∃ w ws b, s.cmds = w :: ws ∧ decodeCommand w = .instr (.pbPush b) ∧ memoryRead t.pbuf a = b)

/-- The reset state satisfies the invariant. -/
def Obligations.ResetSatisfiesInv : Prop := Inv State.reset

/-- Every step from any state that satisfies the invariant keeps it (10_state R26, 20_memory R62, 60_exceptions R240,
R242, 44_parse R187, R192): the buffer stays in range and canonical, STAT stays one that the rules can produce, the
phases keep what their events rely on. It covers reset turns and the model's own fields (log entries 1 to 5, 12 and
15). -/
def Obligations.StepKeepsInv : Prop :=
  ∀ s t : State, Inv s → step s = .next t → Inv t

/-- No fault state (60_exceptions R249): from every state that satisfies the invariant a step has a next state, never a
fault or a refusal, and so has every instruction. That a wire tag has one away from `P_INST` and `A_INST`, and a command
while an operation runs, is the model's choice: it is refused or held (log entries 7 and 8); a step
may be a wait or a reset (log entry 2), and the fault it excludes is the model's (log entry 10). -/
def Obligations.InvNeverStops : Prop :=
  ∀ s : State, Inv s → (∃ t, step s = .next t) ∧ (∀ i, ∃ t, exec i s = .next t)

/-- No rule can observe a byte of `pbuf` at or above `pwp` (10_state R27): two states that differ only there, each with
its buffer in canonical form, step to two such states again, a reset turn included (log entries 1, 2, 4 and 15). -/
def Obligations.UnwrittenBytesAreUnobservable : Prop :=
  ∀ s t s' : State, Inv s → AgreeBelowPwp s t → step s = .next s' →
    ∃ t', step t = .next t' ∧ AgreeBelowPwp s' t'

/-- The host reads the sixteen registers other than `pbuf` at idle only, each as it stands; `busy` is always readable
(10_state R36; log entry 14). -/
def Obligations.HostReadsAtIdleOnly : Prop :=
  ∀ s : State, (s.busy = true ↔ s.ph ≠ .idle) ∧ (s.ph ≠ .idle → hostView s = none) ∧
    (s.ph = .idle → hostView s = some {
      crc := s.crc, s3 := s.s3, s4 := s.s4, pwp := s.pwp, alen := s.alen, idx := s.idx, rid := s.rid, rlen := s.rlen,
      rinst := s.rinst, rerr := s.rerr, rem := s.rem, rcrc := s.rcrc, nlog := s.nlog, skip := s.skip, stat := s.stat,
      ph := s.ph })

/-! ## Whole operations -/

/-- ASM (43_assemble R164 to R167): from acceptance, `7 + alen` port events and no other step send exactly the frame of
the buffer on TX; the Length does not wrap; the end state is the one R167 gives and nothing else has changed (log
entries 1, 2, 5 and 12). -/
def Obligations.AsmSendsTheFrame : Prop :=
  ∀ (s : State) (id inst : Byte) (p : List Byte), Unhindered s → s.ph = .idle → params s = some p →
    (frameLength p).toNat = p.length + stuffCount p + 3 ∧
    ∃ t, exec (.asm id inst) s = .next t ∧
      Runs (7 + (frameLength p).toNat) t { s with
        stat := 0#11, crc := frameCrc id inst p, alen := frameLength p, idx := s.pwp, s3 := feedAll 3 0 p,
        opId := id, opInst := inst, ph := .idle,
        trace := s.trace ++ (instrFrame id inst p).map .pushTx }

/-- HUNT (41_sentry R129): it pulls up to and including the first byte on which the header sentry, from the count it
holds, reports a match, and that byte is `0x00`; while none matches it waits for more (log entries 1, 2 and 12). -/
def Obligations.HuntPullsThroughTheHeader : Prop :=
  ∀ (s : State) (bs : List Byte), Unhindered s → s.ph = .idle → sentryQuiet 4 s.s4 bs = true →
    ∃ t, exec .hunt s = .next t ∧
      (∀ (b : Byte) (after : List Byte), s.rx = bs ++ b :: after → (feed 4 (feedAll 4 s.s4 bs) b).2 = true →
        b = 0x00#8 ∧
        Runs (bs.length + 1) t { s with
          stat := 0x200#11, s4 := 0, rx := after, ph := .idle, trace := s.trace ++ pulls (bs ++ [b]) }) ∧
      (s.rx = bs → ∀ n, Runs (bs.length + n) t { s with
        stat := 0#11, s4 := feedAll 4 s.s4 bs, rx := [], ph := .hRx, trace := s.trace ++ pulls bs })

/-- PARSE on a head it rejects (44_parse R182 to R184, R190, R192, R245): five pulls, nothing pushed, the kind and the
registers as R192 lists them, the rest of the frame left in RX (log entries 1, 2, 5 and 12). -/
def Obligations.ParseRejectsTheHead : Prop :=
  ∀ (s : State) (ce : Bool) (cap len : Half) (id inst err : Byte) (after : List Byte),
    Unhindered s → s.ph = .idle → s.rx = headBytes id len inst err ++ after →
    ∃ t, exec (.parse ce cap) s = .next t ∧
      (∀ u : State, u = { s with
          rid := id, rlen := len, rinst := inst, rerr := err, rem := 0x0000#16, rcrc := 0x0000#16, nlog := 0x0000#16,
          skip := false, crc := parseCrc (headBytes id len inst err), s3 := 0, opCe := ce, opCap := cap,
          rx := after, trace := s.trace ++ pulls (headBytes id len inst err), ph := .idle } →
        (inst ≠ 0x55#8 → Runs 5 t { u with stat := 0x080#11 }) ∧
        (inst = 0x55#8 → len.toNat < 4 → Runs 5 t { u with stat := 0x082#11 }) ∧
        (inst = 0x55#8 → 4 ≤ len.toNat → ce = true → cap.toNat ≠ len.toNat - 4 →
          Runs 5 t { u with stat := 0x082#11, rem := len - 4 }))

/-- PARSE on a status frame that passes its head (44_parse R181, R185 to R192): it pulls `len + 3` bytes, pushes exactly
the destuffed parameter bytes to PO, each right after its own pull, and ends with the kind that the CRC and the Error
byte give and the registers of R192 (log entries 1, 2, 5 and 12). -/
def Obligations.ParseReadsTheFrame : Prop :=
  ∀ (s : State) (ce : Bool) (cap len : Half) (id err c0 c1 : Byte) (raw after : List Byte),
    Unhindered s → s.ph = .idle → len.toNat = raw.length + 4 → (ce = true → cap.toNat = raw.length) →
    s.rx = headBytes id len 0x55#8 err ++ raw ++ [c0, c1] ++ after →
    poBytes (rawEvents 0 false raw) = destuff raw ∧ pulledBytes (rawEvents 0 false raw) = raw ∧
    ∃ t, exec (.parse ce cap) s = .next t ∧
      Runs (5 + (rawEvents 0 false raw).length + 2) t { s with
        rid := id, rlen := len, rinst := 0x55#8, rerr := err, rem := 0x0000#16, rcrc := c1 ++ c0,
        nlog := BitVec.ofNat 16 (destuff raw).length, skip := false,
        crc := parseCrc (headBytes id len 0x55#8 err ++ raw), s3 := feedAll 3 0 (destuff raw),
        stat := verdictStat (c1 ++ c0) (parseCrc (headBytes id len 0x55#8 err ++ raw)) err,
        opCe := ce, opCap := cap, held := (destuff raw).getLastD s.held, rx := after, ph := .idle,
        trace := s.trace ++ pulls (headBytes id len 0x55#8 err) ++ rawEvents 0 false raw ++ pulls [c0, c1] }

/-- The round trip of R169: the bytes that `ASM id, 0x55` sends for a buffer `[e] ++ q`, from the fifth on, make
`PARSE 0, 0` on any block end OK with the PacketID in `rid` and exactly `q` on PO, for `e` 0x00 or 0x80 (log entries
1 and 2). -/
def Obligations.StatusFrameRoundTrip : Prop :=
  ∀ (s : State) (id e : Byte) (q : List Byte), Unhindered s → s.ph = .idle → params s = some (e :: q) →
    e = 0x00#8 ∨ e = 0x80#8 →
    ∃ (t u : State) (n : Nat) (sent : List Byte), exec (.asm id 0x55#8) s = .next t ∧ Runs n t u ∧ u.ph = .idle ∧
      txBytes u.trace = txBytes s.trace ++ sent ∧
      ∀ (r : State) (after : List Byte), Unhindered r → r.ph = .idle → r.rx = sent.drop 4 ++ after →
        ∃ (v w : State) (m : Nat), exec (.parse false 0x0000#16) r = .next v ∧ Runs m v w ∧
          w.ph = .idle ∧ w.stat = 0#11 ∧ w.rid = id ∧ w.rx = after ∧ poBytes w.trace = poBytes r.trace ++ q

/-- What comes after the Instruction byte (45_wire_tags R211, R222): with every byte but the status marker PARSE ends
with NOT_STATUS at the Error position; with the status marker and a Length of at least 4 and no capacity check it goes
on (log entries 1, 2 and 12). -/
def Obligations.OnlyTheStatusMarkerGoesOn : Prop :=
  ∀ (s : State) (b e : Byte) (after : List Byte), Unhindered s → s.ph = .pInst → s.stat = 0#11 →
    s.rx = b :: e :: after →
    ∃ t, Runs 2 s t ∧
      (b ≠ 0x55#8 → t.ph = .idle ∧ t.stat = 0x080#11 ∧ t.rinst = b ∧ t.rerr = e ∧ t.rx = after) ∧
      (b = 0x55#8 → 4 ≤ s.rlen.toNat → s.opCe = false → t.stat = 0#11 ∧ t.rem = s.rlen - 4 ∧
        t.ph = if s.rlen = 4 then .pC0 else .pRaw)

/-- LOADP (30_encoding R93, 10_state R26): the expansion leaves exactly its bytes as the parameter sequence, when they
fit, and changes nothing else: no register but STAT and `pwp`, no byte of the buffer above them. -/
def Obligations.LoadpFillsTheBuffer : Prop :=
  ∀ (s : State) (bs : List Byte), s.ph = .idle → memoryWf s.pbuf = true → bs.length ≤ s.pbufSize.val →
    ∃ t, execAll (Pseudo.loadp bs).expand s = .next t ∧
      t = { s with stat := 0#11, pwp := BitVec.ofNat 16 bs.length, pbuf := t.pbuf } ∧
      params t = some bs ∧ memoryWf t.pbuf = true ∧
      ∀ a, bs.length ≤ a → memoryRead t.pbuf a = memoryRead s.pbuf a

/-- CRC16 (30_encoding R93, R107): the expansion leaves the fold of its bytes from seed 0 in `crc` and changes nothing
else. -/
def Obligations.Crc16FoldsFromZero : Prop :=
  ∀ (s : State) (bs : List Byte), s.ph = .idle →
    execAll (Pseudo.crc16 bs).expand s = .next { s with stat := 0#11, crc := fold 0x0000#16 bs }
end

