-- ==== Sys2Proof/Laws/Crc.lean ====
section
/-! SUPPORT. The CRC step and fold on the shapes of lists the machine meets, and the table's round as a linear
map. -/

namespace Sys2Proof.Machine

@[simp] theorem fold_nil (s : Half) : fold s [] = s := rfl
@[simp] theorem fold_cons (s : Half) (b : Byte) (bs : List Byte) : fold s (b :: bs) = fold (adv s b) bs := rfl
theorem fold_append (s : Half) (xs ys : List Byte) : fold s (xs ++ ys) = fold (fold s xs) ys := by simp [fold]
theorem fold_snoc (s : Half) (xs : List Byte) (b : Byte) : fold s (xs ++ [b]) = adv (fold s xs) b := by
  simp [fold_append]

/-- One round of the table's construction is linear over xor. -/
theorem crcShift_xor (a b : Half) : crcShift (a ^^^ b) = crcShift a ^^^ crcShift b := by
  unfold crcShift
  rw [BitVec.msb_xor, BitVec.shiftLeft_xor_distrib]
  generalize a <<< 1 = x
  generalize b <<< 1 = y
  cases a.msb <;> cases b.msb <;> simp only [Bool.xor_self, Bool.xor_false, Bool.false_xor, if_true, if_false,
    Bool.false_eq_true]
  · exact (BitVec.xor_assoc x y _)
  · rw [BitVec.xor_assoc, BitVec.xor_assoc, BitVec.xor_comm y]
  · rw [BitVec.xor_assoc x, BitVec.xor_comm y, ← BitVec.xor_assoc 0x8005#16, BitVec.xor_self, BitVec.zero_xor]

theorem crcShifts_xor (n : Nat) (a b : Half) : crcShifts n (a ^^^ b) = crcShifts n a ^^^ crcShifts n b := by
  induction n generalizing a b with
  | zero => rfl
  | succ n ih => simp only [crcShifts, crcShift_xor, ih]

/-- The header's CRC is the constant `HDR_SEED` (R8). -/
theorem fold_header : fold 0x0000#16 header = hdrSeed := by decide +kernel

end Sys2Proof.Machine
end

