-- ==== Sys2Proof/Laws/Encoding.lean ====
section
/-! SUPPORT. The fields of a word assembled from its fields, and a word as the assembly of its fields, one pair of
lemmas per format of R71. -/

namespace Sys2Proof

theorem fieldsN (op : BitVec 4) : opField (op ++ 0#28) = op ∧ clearN (op ++ 0#28) = true := by
  refine ⟨?_, ?_⟩
  · show @BitVec.extractLsb' (4 + 28) 28 4 (op ++ 0#28) = op
    ext i hi
    simp only [BitVec.getElem_extractLsb', BitVec.getLsbD_append]
    rw [if_neg (by omega), show 28 + i - 28 = i by omega, BitVec.getLsbD_eq_getElem hi]
  · unfold clearN; rw [beq_iff_eq]
    show @BitVec.extractLsb' (4 + 28) 0 28 (op ++ 0#28) = 0#28
    ext i hi
    simp only [BitVec.getElem_extractLsb', BitVec.getLsbD_append]
    rw [if_pos (by omega)]; simp

theorem fieldsB (op : BitVec 4) (b : Byte) :
    opField (op ++ 0#20 ++ b) = op ∧ bField (op ++ 0#20 ++ b) = b ∧ clearB (op ++ 0#20 ++ b) = true := by
  refine ⟨?_, ?_, ?_⟩
  · show @BitVec.extractLsb' (4 + 20 + 8) 28 4 (op ++ 0#20 ++ b) = op
    ext i hi
    simp only [BitVec.getElem_extractLsb', BitVec.getLsbD_append]
    rw [if_neg (by omega), if_neg (by omega), show 28 + i - 8 - 20 = i by omega, BitVec.getLsbD_eq_getElem hi]
  · show @BitVec.extractLsb' (4 + 20 + 8) 0 8 (op ++ 0#20 ++ b) = b
    ext i hi
    simp only [BitVec.getElem_extractLsb', BitVec.getLsbD_append]
    rw [if_pos (by omega), Nat.zero_add, BitVec.getLsbD_eq_getElem hi]
  · unfold clearB; rw [beq_iff_eq]
    show @BitVec.extractLsb' (4 + 20 + 8) 8 20 (op ++ 0#20 ++ b) = 0#20
    ext i hi
    simp only [BitVec.getElem_extractLsb', BitVec.getLsbD_append]
    rw [if_neg (by omega), if_pos (by omega)]; simp

theorem fieldsH (op : BitVec 4) (v : Half) :
    opField (op ++ 0#12 ++ v) = op ∧ vField (op ++ 0#12 ++ v) = v ∧ clearH (op ++ 0#12 ++ v) = true := by
  refine ⟨?_, ?_, ?_⟩
  · show @BitVec.extractLsb' (4 + 12 + 16) 28 4 (op ++ 0#12 ++ v) = op
    ext i hi
    simp only [BitVec.getElem_extractLsb', BitVec.getLsbD_append]
    rw [if_neg (by omega), if_neg (by omega), show 28 + i - 16 - 12 = i by omega, BitVec.getLsbD_eq_getElem hi]
  · show @BitVec.extractLsb' (4 + 12 + 16) 0 16 (op ++ 0#12 ++ v) = v
    ext i hi
    simp only [BitVec.getElem_extractLsb', BitVec.getLsbD_append]
    rw [if_pos (by omega), Nat.zero_add, BitVec.getLsbD_eq_getElem hi]
  · unfold clearH; rw [beq_iff_eq]
    show @BitVec.extractLsb' (4 + 12 + 16) 16 12 (op ++ 0#12 ++ v) = 0#12
    ext i hi
    simp only [BitVec.getElem_extractLsb', BitVec.getLsbD_append]
    rw [if_neg (by omega), if_pos (by omega)]; simp

theorem fieldsA (op : BitVec 4) (id inst : Byte) :
    opField (op ++ 0#12 ++ id ++ inst) = op ∧ idField (op ++ 0#12 ++ id ++ inst) = id ∧
      instField (op ++ 0#12 ++ id ++ inst) = inst ∧ clearH (op ++ 0#12 ++ id ++ inst) = true := by
  refine ⟨?_, ?_, ?_, ?_⟩
  · show @BitVec.extractLsb' (4 + 12 + 8 + 8) 28 4 (op ++ 0#12 ++ id ++ inst) = op
    ext i hi
    simp only [BitVec.getElem_extractLsb', BitVec.getLsbD_append]
    rw [if_neg (by omega), if_neg (by omega), if_neg (by omega), show 28 + i - 8 - 8 - 12 = i by omega,
      BitVec.getLsbD_eq_getElem hi]
  · show @BitVec.extractLsb' (4 + 12 + 8 + 8) 8 8 (op ++ 0#12 ++ id ++ inst) = id
    ext i hi
    simp only [BitVec.getElem_extractLsb', BitVec.getLsbD_append]
    rw [if_neg (by omega), if_pos (by omega), show 8 + i - 8 = i by omega, BitVec.getLsbD_eq_getElem hi]
  · show @BitVec.extractLsb' (4 + 12 + 8 + 8) 0 8 (op ++ 0#12 ++ id ++ inst) = inst
    ext i hi
    simp only [BitVec.getElem_extractLsb', BitVec.getLsbD_append]
    rw [if_pos (by omega), Nat.zero_add, BitVec.getLsbD_eq_getElem hi]
  · unfold clearH; rw [beq_iff_eq]
    show @BitVec.extractLsb' (4 + 12 + 8 + 8) 16 12 (op ++ 0#12 ++ id ++ inst) = 0#12
    ext i hi
    simp only [BitVec.getElem_extractLsb', BitVec.getLsbD_append]
    rw [if_neg (by omega), if_neg (by omega), if_pos (by omega)]; simp

theorem fieldsP (op : BitVec 4) (ce : Bool) (cap : Half) :
    opField (op ++ 0#11 ++ BitVec.ofBool ce ++ cap) = op ∧ ceField (op ++ 0#11 ++ BitVec.ofBool ce ++ cap) = ce ∧
      capField (op ++ 0#11 ++ BitVec.ofBool ce ++ cap) = cap ∧
      clearP (op ++ 0#11 ++ BitVec.ofBool ce ++ cap) = true := by
  refine ⟨?_, ?_, ?_, ?_⟩
  · show @BitVec.extractLsb' (4 + 11 + 1 + 16) 28 4 (op ++ 0#11 ++ BitVec.ofBool ce ++ cap) = op
    ext i hi
    simp only [BitVec.getElem_extractLsb', BitVec.getLsbD_append]
    rw [if_neg (by omega), if_neg (by omega), if_neg (by omega), show 28 + i - 16 - 1 - 11 = i by omega,
      BitVec.getLsbD_eq_getElem hi]
  · show @BitVec.getLsbD (4 + 11 + 1 + 16) (op ++ 0#11 ++ BitVec.ofBool ce ++ cap) 16 = ce
    simp only [BitVec.getLsbD_append]
    cases ce <;> rfl
  · show @BitVec.extractLsb' (4 + 11 + 1 + 16) 0 16 (op ++ 0#11 ++ BitVec.ofBool ce ++ cap) = cap
    ext i hi
    simp only [BitVec.getElem_extractLsb', BitVec.getLsbD_append]
    rw [if_pos (by omega), Nat.zero_add, BitVec.getLsbD_eq_getElem hi]
  · unfold clearP; rw [beq_iff_eq]
    show @BitVec.extractLsb' (4 + 11 + 1 + 16) 17 11 (op ++ 0#11 ++ BitVec.ofBool ce ++ cap) = 0#11
    ext i hi
    simp only [BitVec.getElem_extractLsb', BitVec.getLsbD_append]
    rw [if_neg (by omega), if_neg (by omega), if_pos (by omega)]; simp

theorem wordN (w : Word) (h : clearN w = true) : (opField w ++ 0#28 : Word) = w := by
  simp only [clearN, beq_iff_eq] at h
  rw [← h]
  show (@HAppend.hAppend (BitVec 4) (BitVec 28) (BitVec (4 + 28)) _ (opField w) (w.extractLsb' 0 28)) = w
  ext i hi
  simp only [BitVec.getElem_append, opField, BitVec.getElem_extractLsb']
  split
  · rw [Nat.zero_add, BitVec.getLsbD_eq_getElem]
  · rw [show 28 + (i - 28) = i by omega, BitVec.getLsbD_eq_getElem]

theorem wordB (w : Word) (h : clearB w = true) : (opField w ++ 0#20 ++ bField w : Word) = w := by
  simp only [clearB, beq_iff_eq] at h
  rw [← h]
  show (@HAppend.hAppend (BitVec (4 + 20)) (BitVec 8) (BitVec (4 + 20 + 8)) _
    (opField w ++ w.extractLsb' 8 20) (bField w)) = w
  ext i hi
  simp only [BitVec.getElem_append, opField, bField, BitVec.getElem_extractLsb']
  split
  · rw [Nat.zero_add, BitVec.getLsbD_eq_getElem]
  · split
    · rw [show 8 + (i - 8) = i by omega, BitVec.getLsbD_eq_getElem]
    · rw [show 28 + (i - 8 - 20) = i by omega, BitVec.getLsbD_eq_getElem]

theorem wordH (w : Word) (h : clearH w = true) : (opField w ++ 0#12 ++ vField w : Word) = w := by
  simp only [clearH, beq_iff_eq] at h
  rw [← h]
  show (@HAppend.hAppend (BitVec (4 + 12)) (BitVec 16) (BitVec (4 + 12 + 16)) _
    (opField w ++ w.extractLsb' 16 12) (vField w)) = w
  ext i hi
  simp only [BitVec.getElem_append, opField, vField, BitVec.getElem_extractLsb']
  split
  · rw [Nat.zero_add, BitVec.getLsbD_eq_getElem]
  · split
    · rw [show 16 + (i - 16) = i by omega, BitVec.getLsbD_eq_getElem]
    · rw [show 28 + (i - 16 - 12) = i by omega, BitVec.getLsbD_eq_getElem]

theorem wordA (w : Word) (h : clearH w = true) :
    (opField w ++ 0#12 ++ idField w ++ instField w : Word) = w := by
  simp only [clearH, beq_iff_eq] at h
  rw [← h]
  show (@HAppend.hAppend (BitVec (4 + 12 + 8)) (BitVec 8) (BitVec (4 + 12 + 8 + 8)) _
    (opField w ++ w.extractLsb' 16 12 ++ idField w) (instField w)) = w
  ext i hi
  simp only [BitVec.getElem_append, opField, idField, instField, BitVec.getElem_extractLsb']
  split
  · rw [Nat.zero_add, BitVec.getLsbD_eq_getElem]
  · split
    · rw [show 8 + (i - 8) = i by omega, BitVec.getLsbD_eq_getElem]
    · split
      · rw [show 16 + (i - 8 - 8) = i by omega, BitVec.getLsbD_eq_getElem]
      · rw [show 28 + (i - 8 - 8 - 12) = i by omega, BitVec.getLsbD_eq_getElem]

theorem wordP (w : Word) (h : clearP w = true) :
    (opField w ++ 0#11 ++ BitVec.ofBool (ceField w) ++ capField w : Word) = w := by
  simp only [clearP, beq_iff_eq] at h
  rw [← h]
  show (@HAppend.hAppend (BitVec (4 + 11 + 1)) (BitVec 16) (BitVec (4 + 11 + 1 + 16)) _
    (opField w ++ w.extractLsb' 17 11 ++ BitVec.ofBool (ceField w)) (capField w)) = w
  ext i hi
  simp only [BitVec.getElem_append, opField, ceField, capField, BitVec.getElem_extractLsb']
  split
  · rw [Nat.zero_add, BitVec.getLsbD_eq_getElem]
  · split
    · have h16 : i = 16 := by omega
      subst h16
      simp
    · split
      · rw [show 17 + (i - 16 - 1) = i by omega, BitVec.getLsbD_eq_getElem]
      · rw [show 28 + (i - 16 - 1 - 11) = i by omega, BitVec.getLsbD_eq_getElem]

/-- What an accepted form says: its reserved bits are clear and it is the instruction read. -/
theorem whenClear_eq_instr {c : Bool} {i j : Instr} : whenClear c i = .instr j ↔ c = true ∧ i = j := by
  unfold whenClear; split <;> simp_all

theorem whenClear_eq_rejected {c : Bool} {i : Instr} {r : Rejected} :
    whenClear c i = .rejected r ↔ c = false ∧ r = .reservedBits := by
  unfold whenClear; split <;> simp_all [eq_comm]

end Sys2Proof
end

