-- ==== Sys2Proof/Laws/Memory.lean ====
section
/-! SUPPORT. The laws of the parameter buffer as memory: read after write, and that a write keeps the canonical
form. -/

namespace Sys2Proof.Machine

@[simp] theorem memoryRead_nil (a : Nat) : memoryRead [] a = Config.blankByte := rfl

@[simp] theorem memoryWf_nil : memoryWf [] = true := rfl

theorem memoryAbove_mono {lo lo' : Nat} (h : lo' ≤ lo) : ∀ {m : Memory}, memoryAbove lo m = true → memoryAbove lo' m = true
  | [], _ => rfl
  | (k, v) :: rest, hm => by
    simp only [memoryAbove, Bool.and_eq_true, decide_eq_true_eq] at hm ⊢
    exact ⟨⟨by omega, hm.1.2⟩, hm.2⟩

theorem memoryRead_of_above : ∀ {m : Memory} {lo a : Nat}, memoryAbove lo m = true → a ≤ lo →
    memoryRead m a = Config.blankByte
  | [], _, _, _, _ => rfl
  | (k, v) :: rest, lo, a, hm, ha => by
    simp only [memoryAbove, Bool.and_eq_true, decide_eq_true_eq] at hm
    have hk : k ≠ a := by omega
    simp only [memoryRead, hk, if_false]
    exact memoryRead_of_above hm.2 (by omega)

/-- The canonical form is `memoryAbove` but for a bound on the first index. -/
theorem memoryWf_iff : ∀ {m : Memory}, memoryWf m = true ↔
    m = [] ∨ ∃ k v rest, m = (k, v) :: rest ∧ v ≠ Config.blankByte ∧ memoryAbove k rest = true
  | [] => by simp
  | (k, v) :: rest => by simp [memoryWf]

theorem memoryAbove_write : ∀ {m : Memory} {lo a : Nat} (b : Byte), memoryAbove lo m = true → lo < a →
    memoryAbove lo (memoryWrite m a b) = true
  | [], lo, a, b, _, ha => by
    unfold memoryWrite; split
    · rfl
    · simp_all [memoryAbove]
  | (k, v) :: rest, lo, a, b, hm, ha => by
    simp only [memoryAbove, Bool.and_eq_true, decide_eq_true_eq] at hm
    unfold memoryWrite
    split
    · rename_i hk
      simp only [memoryAbove, Bool.and_eq_true, decide_eq_true_eq]
      exact ⟨hm.1, memoryAbove_write b hm.2 hk⟩
    · split
      · rename_i hk
        subst hk
        split
        · exact memoryAbove_mono (by omega) hm.2
        · simp_all [memoryAbove]
      · have hak : a < k := by omega
        split <;> simp_all [memoryAbove]

/-- A write keeps the canonical form. -/
theorem memoryWf_write {m : Memory} (a : Nat) (b : Byte) (hm : memoryWf m = true) :
    memoryWf (memoryWrite m a b) = true := by
  rcases memoryWf_iff.1 hm with rfl | ⟨k, v, rest, rfl, hv, hr⟩
  · unfold memoryWrite; split <;> simp_all [memoryWf, memoryAbove]
  · unfold memoryWrite
    split
    · rename_i hk
      simp [memoryWf, hv, memoryAbove_write b hr hk]
    · split
      · rename_i hk
        subst hk
        split
        · cases rest with
          | nil => rfl
          | cons c cs =>
            simp only [memoryAbove, Bool.and_eq_true, decide_eq_true_eq] at hr
            simp [memoryWf, hr]
        · simp_all [memoryWf]
      · have hak : a < k := by omega
        split <;> simp_all [memoryWf, memoryAbove]

/-- Read after write: the written index reads as the written byte, every other index as before. -/
theorem memoryRead_write : ∀ {m : Memory} (a b' : Nat) (b : Byte), memoryWf m = true →
    memoryRead (memoryWrite m a b) b' = if b' = a then b else memoryRead m b' := by
  intro m a b' b hm
  have key : ∀ {m : Memory}, (∀ {k v rest}, m = (k, v) :: rest → memoryAbove k rest = true) →
      memoryRead (memoryWrite m a b) b' = if b' = a then b else memoryRead m b' := by
    intro m
    induction m with
    | nil =>
      intro _
      unfold memoryWrite
      by_cases hb : b = Config.blankByte <;> by_cases h : b' = a <;> simp [hb, h, memoryRead]
      exact fun h' => (h h'.symm).elim
    | cons c rest ih =>
      obtain ⟨k, v⟩ := c
      intro hs
      have hr : memoryAbove k rest = true := hs rfl
      unfold memoryWrite
      split
      · rename_i hk
        have ih' := ih (by
          intro k' v' rest' hrest
          subst hrest
          simp only [memoryAbove, Bool.and_eq_true] at hr
          exact hr.2)
        simp only [memoryRead]
        split
        · rename_i h; subst h; rw [if_neg (by omega)]
        · exact ih'
      · split
        · rename_i hk
          subst hk
          split
          · rename_i hb
            subst hb
            by_cases h : b' = k
            · subst h
              simp [memoryRead_of_above hr (Nat.le_refl _)]
            · have h' : k ≠ b' := fun e => h e.symm
              simp [memoryRead, h, h']
          · by_cases h : b' = k
            · subst h; simp [memoryRead]
            · have h' : k ≠ b' := fun e => h e.symm
              simp [memoryRead, h, h']
        · have hak : a < k := by omega
          split
          · rename_i hb
            subst hb
            by_cases h : b' = a
            · subst h
              have hk' : k ≠ b' := by omega
              simp [memoryRead, hk', memoryRead_of_above hr (by omega : b' ≤ k)]
            · simp [h]
          · by_cases h : b' = a
            · subst h; simp [memoryRead]
            · have h' : a ≠ b' := fun e => h e.symm
              simp [memoryRead, h, h']
  refine key ?_
  intro k v rest hrest
  subst hrest
  simp only [memoryWf, Bool.and_eq_true] at hm
  exact hm.2

/-- Writing the same byte at index `n` of two buffers that agree below `n` makes them agree up to `n`. -/
theorem memoryRead_write_agree {m m' : Memory} {n : Nat} (b : Byte) (hm : memoryWf m = true) (hm' : memoryWf m' = true)
    (h : ∀ a < n, memoryRead m a = memoryRead m' a) :
    ∀ a < n + 1, memoryRead (memoryWrite m n b) a = memoryRead (memoryWrite m' n b) a := by
  intro a ha
  rw [memoryRead_write n a b hm, memoryRead_write n a b hm']
  split
  · rfl
  · exact h a (by omega)

/-- A write lists no index but the written one and those listed before. -/
theorem mem_memoryWrite : ∀ {m : Memory} {a : Nat} {b : Byte} {c : Host.Cell}, c ∈ memoryWrite m a b →
    c = (a, b) ∨ c ∈ m
  | [], a, b, c, h => by
    unfold memoryWrite at h
    split at h <;> simp_all
  | (k, v) :: rest, a, b, c, h => by
    unfold memoryWrite at h
    split at h
    · rcases List.mem_cons.1 h with h | h
      · exact .inr (by simp [h])
      · rcases mem_memoryWrite h with h | h
        · exact .inl h
        · exact .inr (by simp [h])
    · split at h
      · split at h
        · exact .inr (by simp [h])
        · rcases List.mem_cons.1 h with h | h
          · exact .inl h
          · exact .inr (by simp [h])
      · split at h
        · exact .inr h
        · exact List.mem_cons.1 h

/-- What a completed `MemWrite` can do: the index exists and only `pbuf` changes. -/
theorem pbufWrite_eq_some {s t : State} {i : Nat} {b : Byte} :
    pbufWrite s i b = some t ↔ i < s.pbufSize.val ∧ t = { s with pbuf := memoryWrite s.pbuf i b } := by
  unfold pbufWrite; split <;> simp_all [eq_comm]

/-- What a completed `MemRead` answers. -/
theorem pbufRead_eq_some {s : State} {i : Nat} {b : Byte} :
    pbufRead s i = some b ↔ i < s.pbufSize.val ∧ b = memoryRead s.pbuf i := by
  unfold pbufRead; split <;> simp_all [eq_comm]

theorem pbufRead_eq_none {s : State} {i : Nat} : pbufRead s i = none ↔ s.pbufSize.val ≤ i := by
  unfold pbufRead; split <;> simp_all

theorem pbufWrite_eq_none {s : State} {i : Nat} {b : Byte} : pbufWrite s i b = none ↔ s.pbufSize.val ≤ i := by
  unfold pbufWrite; split <;> simp_all

end Sys2Proof.Machine
end

