-- ==== Sys2Proof/Laws/Stat.lean ====
section
/-! SUPPORT. The fields of STAT: reading a field of an assembled value, and reading a field after writing one. -/

namespace Sys2Proof.Machine

@[simp] theorem statKind_statOf (k : Byte) (a m e : Bool) : statKind (statOf k a m e) = k := by
  have key : ∀ k : BitVec 8, ∀ a m e : Bool, statKind (statOf k a m e) = k := by decide +kernel
  exact key k a m e

@[simp] theorem statAlert_statOf (k : Byte) (a m e : Bool) : statAlert (statOf k a m e) = a := by
  have key : ∀ k : BitVec 8, ∀ a m e : Bool, statAlert (statOf k a m e) = a := by decide +kernel
  exact key k a m e

@[simp] theorem statMatch_statOf (k : Byte) (a m e : Bool) : statMatch (statOf k a m e) = m := by
  have key : ∀ k : BitVec 8, ∀ a m e : Bool, statMatch (statOf k a m e) = m := by decide +kernel
  exact key k a m e

@[simp] theorem statCmderr_statOf (k : Byte) (a m e : Bool) : statCmderr (statOf k a m e) = e := by
  have key : ∀ k : BitVec 8, ∀ a m e : Bool, statCmderr (statOf k a m e) = e := by decide +kernel
  exact key k a m e

/-- STAT is its four fields. -/
theorem statOf_fields (v : BitVec 11) : statOf (statKind v) (statAlert v) (statMatch v) (statCmderr v) = v := by
  have key : ∀ v : BitVec 11, statOf (statKind v) (statAlert v) (statMatch v) (statCmderr v) = v := by
    decide +kernel
  exact key v

/-- Two values of STAT with the same fields are equal. -/
theorem stat_ext {v w : BitVec 11} (hk : statKind v = statKind w) (ha : statAlert v = statAlert w)
    (hm : statMatch v = statMatch w) (he : statCmderr v = statCmderr w) : v = w := by
  rw [← statOf_fields v, ← statOf_fields w, hk, ha, hm, he]

@[simp] theorem statKind_zero : statKind 0#11 = 0#8 := by decide
@[simp] theorem statAlert_zero : statAlert 0#11 = false := by decide
@[simp] theorem statMatch_zero : statMatch 0#11 = false := by decide
@[simp] theorem statCmderr_zero : statCmderr 0#11 = false := by decide

@[simp] theorem statKind_setKind (v : BitVec 11) (k : Byte) : statKind (setKind v k) = k := by simp [setKind]
@[simp] theorem statAlert_setKind (v : BitVec 11) (k : Byte) : statAlert (setKind v k) = statAlert v := by simp [setKind]
@[simp] theorem statMatch_setKind (v : BitVec 11) (k : Byte) : statMatch (setKind v k) = statMatch v := by simp [setKind]
@[simp] theorem statCmderr_setKind (v : BitVec 11) (k : Byte) : statCmderr (setKind v k) = statCmderr v := by simp [setKind]

@[simp] theorem statKind_setAlert (v : BitVec 11) (a : Bool) : statKind (setAlert v a) = statKind v := by simp [setAlert]
@[simp] theorem statAlert_setAlert (v : BitVec 11) (a : Bool) : statAlert (setAlert v a) = a := by simp [setAlert]
@[simp] theorem statMatch_setAlert (v : BitVec 11) (a : Bool) : statMatch (setAlert v a) = statMatch v := by simp [setAlert]
@[simp] theorem statCmderr_setAlert (v : BitVec 11) (a : Bool) : statCmderr (setAlert v a) = statCmderr v := by simp [setAlert]

@[simp] theorem statKind_setMatch (v : BitVec 11) (m : Bool) : statKind (setMatch v m) = statKind v := by simp [setMatch]
@[simp] theorem statAlert_setMatch (v : BitVec 11) (m : Bool) : statAlert (setMatch v m) = statAlert v := by simp [setMatch]
@[simp] theorem statMatch_setMatch (v : BitVec 11) (m : Bool) : statMatch (setMatch v m) = m := by simp [setMatch]
@[simp] theorem statCmderr_setMatch (v : BitVec 11) (m : Bool) : statCmderr (setMatch v m) = statCmderr v := by simp [setMatch]

@[simp] theorem statKind_setCmderr (v : BitVec 11) (e : Bool) : statKind (setCmderr v e) = statKind v := by simp [setCmderr]
@[simp] theorem statAlert_setCmderr (v : BitVec 11) (e : Bool) : statAlert (setCmderr v e) = statAlert v := by simp [setCmderr]
@[simp] theorem statMatch_setCmderr (v : BitVec 11) (e : Bool) : statMatch (setCmderr v e) = statMatch v := by simp [setCmderr]
@[simp] theorem statCmderr_setCmderr (v : BitVec 11) (e : Bool) : statCmderr (setCmderr v e) = e := by simp [setCmderr]

/-- Writing OK into a cleared STAT leaves it cleared. -/
@[simp] theorem setKind_zero_zero : setKind 0#11 0x00#8 = 0#11 := by decide
@[simp] theorem setMatch_zero_false : setMatch 0#11 false = 0#11 := by decide
@[simp] theorem setMatch_zero_true : setMatch 0#11 true = 0x200#11 := by decide
@[simp] theorem setCmderr_zero_true : setCmderr 0#11 true = 0x400#11 := by decide

/-- The kind of a device Error byte is below 0x80. -/
theorem errKind_lt (e : Byte) : (errKind e).toNat < 0x80 := by
  have h : (errKind e).toNat = e.toNat % 0x80 := by
    simpa [errKind] using Nat.and_two_pow_sub_one_eq_mod e.toNat 7
  omega

end Sys2Proof.Machine
end

