-- ==== Sys2Proof/Laws/State.lean ====
section
/-! SUPPORT. One lemma per field per named update of the state, each true by rfl. -/

namespace Sys2Proof.Machine

@[simp] theorem pushTx_crc (b : Byte) (s : State) : (pushTx b s).crc = s.crc := rfl
@[simp] theorem pushTx_s3 (b : Byte) (s : State) : (pushTx b s).s3 = s.s3 := rfl
@[simp] theorem pushTx_s4 (b : Byte) (s : State) : (pushTx b s).s4 = s.s4 := rfl
@[simp] theorem pushTx_pwp (b : Byte) (s : State) : (pushTx b s).pwp = s.pwp := rfl
@[simp] theorem pushTx_pbuf (b : Byte) (s : State) : (pushTx b s).pbuf = s.pbuf := rfl
@[simp] theorem pushTx_alen (b : Byte) (s : State) : (pushTx b s).alen = s.alen := rfl
@[simp] theorem pushTx_idx (b : Byte) (s : State) : (pushTx b s).idx = s.idx := rfl
@[simp] theorem pushTx_rid (b : Byte) (s : State) : (pushTx b s).rid = s.rid := rfl
@[simp] theorem pushTx_rlen (b : Byte) (s : State) : (pushTx b s).rlen = s.rlen := rfl
@[simp] theorem pushTx_rinst (b : Byte) (s : State) : (pushTx b s).rinst = s.rinst := rfl
@[simp] theorem pushTx_rerr (b : Byte) (s : State) : (pushTx b s).rerr = s.rerr := rfl
@[simp] theorem pushTx_rem (b : Byte) (s : State) : (pushTx b s).rem = s.rem := rfl
@[simp] theorem pushTx_rcrc (b : Byte) (s : State) : (pushTx b s).rcrc = s.rcrc := rfl
@[simp] theorem pushTx_nlog (b : Byte) (s : State) : (pushTx b s).nlog = s.nlog := rfl
@[simp] theorem pushTx_skip (b : Byte) (s : State) : (pushTx b s).skip = s.skip := rfl
@[simp] theorem pushTx_stat (b : Byte) (s : State) : (pushTx b s).stat = s.stat := rfl
@[simp] theorem pushTx_ph (b : Byte) (s : State) : (pushTx b s).ph = s.ph := rfl
@[simp] theorem pushTx_opId (b : Byte) (s : State) : (pushTx b s).opId = s.opId := rfl
@[simp] theorem pushTx_opInst (b : Byte) (s : State) : (pushTx b s).opInst = s.opInst := rfl
@[simp] theorem pushTx_opCe (b : Byte) (s : State) : (pushTx b s).opCe = s.opCe := rfl
@[simp] theorem pushTx_opCap (b : Byte) (s : State) : (pushTx b s).opCap = s.opCap := rfl
@[simp] theorem pushTx_held (b : Byte) (s : State) : (pushTx b s).held = s.held := rfl
@[simp] theorem pushTx_pbufSize (b : Byte) (s : State) : (pushTx b s).pbufSize = s.pbufSize := rfl
@[simp] theorem pushTx_cmds (b : Byte) (s : State) : (pushTx b s).cmds = s.cmds := rfl
@[simp] theorem pushTx_rx (b : Byte) (s : State) : (pushTx b s).rx = s.rx := rfl
@[simp] theorem pushTx_trace (b : Byte) (s : State) : (pushTx b s).trace = s.trace ++ [.pushTx b] := rfl
@[simp] theorem pushTx_turns (b : Byte) (s : State) : (pushTx b s).turns = s.turns := rfl
@[simp] theorem pushTx_rest (b : Byte) (s : State) : (pushTx b s).rest = s.rest := rfl

@[simp] theorem pushPo_crc (b : Byte) (s : State) : (pushPo b s).crc = s.crc := rfl
@[simp] theorem pushPo_s3 (b : Byte) (s : State) : (pushPo b s).s3 = s.s3 := rfl
@[simp] theorem pushPo_s4 (b : Byte) (s : State) : (pushPo b s).s4 = s.s4 := rfl
@[simp] theorem pushPo_pwp (b : Byte) (s : State) : (pushPo b s).pwp = s.pwp := rfl
@[simp] theorem pushPo_pbuf (b : Byte) (s : State) : (pushPo b s).pbuf = s.pbuf := rfl
@[simp] theorem pushPo_alen (b : Byte) (s : State) : (pushPo b s).alen = s.alen := rfl
@[simp] theorem pushPo_idx (b : Byte) (s : State) : (pushPo b s).idx = s.idx := rfl
@[simp] theorem pushPo_rid (b : Byte) (s : State) : (pushPo b s).rid = s.rid := rfl
@[simp] theorem pushPo_rlen (b : Byte) (s : State) : (pushPo b s).rlen = s.rlen := rfl
@[simp] theorem pushPo_rinst (b : Byte) (s : State) : (pushPo b s).rinst = s.rinst := rfl
@[simp] theorem pushPo_rerr (b : Byte) (s : State) : (pushPo b s).rerr = s.rerr := rfl
@[simp] theorem pushPo_rem (b : Byte) (s : State) : (pushPo b s).rem = s.rem := rfl
@[simp] theorem pushPo_rcrc (b : Byte) (s : State) : (pushPo b s).rcrc = s.rcrc := rfl
@[simp] theorem pushPo_nlog (b : Byte) (s : State) : (pushPo b s).nlog = s.nlog := rfl
@[simp] theorem pushPo_skip (b : Byte) (s : State) : (pushPo b s).skip = s.skip := rfl
@[simp] theorem pushPo_stat (b : Byte) (s : State) : (pushPo b s).stat = s.stat := rfl
@[simp] theorem pushPo_ph (b : Byte) (s : State) : (pushPo b s).ph = s.ph := rfl
@[simp] theorem pushPo_opId (b : Byte) (s : State) : (pushPo b s).opId = s.opId := rfl
@[simp] theorem pushPo_opInst (b : Byte) (s : State) : (pushPo b s).opInst = s.opInst := rfl
@[simp] theorem pushPo_opCe (b : Byte) (s : State) : (pushPo b s).opCe = s.opCe := rfl
@[simp] theorem pushPo_opCap (b : Byte) (s : State) : (pushPo b s).opCap = s.opCap := rfl
@[simp] theorem pushPo_held (b : Byte) (s : State) : (pushPo b s).held = s.held := rfl
@[simp] theorem pushPo_pbufSize (b : Byte) (s : State) : (pushPo b s).pbufSize = s.pbufSize := rfl
@[simp] theorem pushPo_cmds (b : Byte) (s : State) : (pushPo b s).cmds = s.cmds := rfl
@[simp] theorem pushPo_rx (b : Byte) (s : State) : (pushPo b s).rx = s.rx := rfl
@[simp] theorem pushPo_trace (b : Byte) (s : State) : (pushPo b s).trace = s.trace ++ [.pushPo b] := rfl
@[simp] theorem pushPo_turns (b : Byte) (s : State) : (pushPo b s).turns = s.turns := rfl
@[simp] theorem pushPo_rest (b : Byte) (s : State) : (pushPo b s).rest = s.rest := rfl

@[simp] theorem pulled_crc (b : Byte) (bs : List Byte) (s : State) : (pulled b bs s).crc = s.crc := rfl
@[simp] theorem pulled_s3 (b : Byte) (bs : List Byte) (s : State) : (pulled b bs s).s3 = s.s3 := rfl
@[simp] theorem pulled_s4 (b : Byte) (bs : List Byte) (s : State) : (pulled b bs s).s4 = s.s4 := rfl
@[simp] theorem pulled_pwp (b : Byte) (bs : List Byte) (s : State) : (pulled b bs s).pwp = s.pwp := rfl
@[simp] theorem pulled_pbuf (b : Byte) (bs : List Byte) (s : State) : (pulled b bs s).pbuf = s.pbuf := rfl
@[simp] theorem pulled_alen (b : Byte) (bs : List Byte) (s : State) : (pulled b bs s).alen = s.alen := rfl
@[simp] theorem pulled_idx (b : Byte) (bs : List Byte) (s : State) : (pulled b bs s).idx = s.idx := rfl
@[simp] theorem pulled_rid (b : Byte) (bs : List Byte) (s : State) : (pulled b bs s).rid = s.rid := rfl
@[simp] theorem pulled_rlen (b : Byte) (bs : List Byte) (s : State) : (pulled b bs s).rlen = s.rlen := rfl
@[simp] theorem pulled_rinst (b : Byte) (bs : List Byte) (s : State) : (pulled b bs s).rinst = s.rinst := rfl
@[simp] theorem pulled_rerr (b : Byte) (bs : List Byte) (s : State) : (pulled b bs s).rerr = s.rerr := rfl
@[simp] theorem pulled_rem (b : Byte) (bs : List Byte) (s : State) : (pulled b bs s).rem = s.rem := rfl
@[simp] theorem pulled_rcrc (b : Byte) (bs : List Byte) (s : State) : (pulled b bs s).rcrc = s.rcrc := rfl
@[simp] theorem pulled_nlog (b : Byte) (bs : List Byte) (s : State) : (pulled b bs s).nlog = s.nlog := rfl
@[simp] theorem pulled_skip (b : Byte) (bs : List Byte) (s : State) : (pulled b bs s).skip = s.skip := rfl
@[simp] theorem pulled_stat (b : Byte) (bs : List Byte) (s : State) : (pulled b bs s).stat = s.stat := rfl
@[simp] theorem pulled_ph (b : Byte) (bs : List Byte) (s : State) : (pulled b bs s).ph = s.ph := rfl
@[simp] theorem pulled_opId (b : Byte) (bs : List Byte) (s : State) : (pulled b bs s).opId = s.opId := rfl
@[simp] theorem pulled_opInst (b : Byte) (bs : List Byte) (s : State) : (pulled b bs s).opInst = s.opInst := rfl
@[simp] theorem pulled_opCe (b : Byte) (bs : List Byte) (s : State) : (pulled b bs s).opCe = s.opCe := rfl
@[simp] theorem pulled_opCap (b : Byte) (bs : List Byte) (s : State) : (pulled b bs s).opCap = s.opCap := rfl
@[simp] theorem pulled_held (b : Byte) (bs : List Byte) (s : State) : (pulled b bs s).held = s.held := rfl
@[simp] theorem pulled_pbufSize (b : Byte) (bs : List Byte) (s : State) : (pulled b bs s).pbufSize = s.pbufSize := rfl
@[simp] theorem pulled_cmds (b : Byte) (bs : List Byte) (s : State) : (pulled b bs s).cmds = s.cmds := rfl
@[simp] theorem pulled_rx (b : Byte) (bs : List Byte) (s : State) : (pulled b bs s).rx = bs := rfl
@[simp] theorem pulled_trace (b : Byte) (bs : List Byte) (s : State) : (pulled b bs s).trace = s.trace ++ [.pull b] := rfl
@[simp] theorem pulled_turns (b : Byte) (bs : List Byte) (s : State) : (pulled b bs s).turns = s.turns := rfl
@[simp] theorem pulled_rest (b : Byte) (bs : List Byte) (s : State) : (pulled b bs s).rest = s.rest := rfl

@[simp] theorem refuse_crc (s : State) : (refuse s).crc = s.crc := rfl
@[simp] theorem refuse_s3 (s : State) : (refuse s).s3 = s.s3 := rfl
@[simp] theorem refuse_s4 (s : State) : (refuse s).s4 = s.s4 := rfl
@[simp] theorem refuse_pwp (s : State) : (refuse s).pwp = s.pwp := rfl
@[simp] theorem refuse_pbuf (s : State) : (refuse s).pbuf = s.pbuf := rfl
@[simp] theorem refuse_alen (s : State) : (refuse s).alen = s.alen := rfl
@[simp] theorem refuse_idx (s : State) : (refuse s).idx = s.idx := rfl
@[simp] theorem refuse_rid (s : State) : (refuse s).rid = s.rid := rfl
@[simp] theorem refuse_rlen (s : State) : (refuse s).rlen = s.rlen := rfl
@[simp] theorem refuse_rinst (s : State) : (refuse s).rinst = s.rinst := rfl
@[simp] theorem refuse_rerr (s : State) : (refuse s).rerr = s.rerr := rfl
@[simp] theorem refuse_rem (s : State) : (refuse s).rem = s.rem := rfl
@[simp] theorem refuse_rcrc (s : State) : (refuse s).rcrc = s.rcrc := rfl
@[simp] theorem refuse_nlog (s : State) : (refuse s).nlog = s.nlog := rfl
@[simp] theorem refuse_skip (s : State) : (refuse s).skip = s.skip := rfl
@[simp] theorem refuse_stat (s : State) : (refuse s).stat = setCmderr 0#11 true := rfl
@[simp] theorem refuse_ph (s : State) : (refuse s).ph = s.ph := rfl
@[simp] theorem refuse_opId (s : State) : (refuse s).opId = s.opId := rfl
@[simp] theorem refuse_opInst (s : State) : (refuse s).opInst = s.opInst := rfl
@[simp] theorem refuse_opCe (s : State) : (refuse s).opCe = s.opCe := rfl
@[simp] theorem refuse_opCap (s : State) : (refuse s).opCap = s.opCap := rfl
@[simp] theorem refuse_held (s : State) : (refuse s).held = s.held := rfl
@[simp] theorem refuse_pbufSize (s : State) : (refuse s).pbufSize = s.pbufSize := rfl
@[simp] theorem refuse_cmds (s : State) : (refuse s).cmds = s.cmds := rfl
@[simp] theorem refuse_rx (s : State) : (refuse s).rx = s.rx := rfl
@[simp] theorem refuse_trace (s : State) : (refuse s).trace = s.trace := rfl
@[simp] theorem refuse_turns (s : State) : (refuse s).turns = s.turns := rfl
@[simp] theorem refuse_rest (s : State) : (refuse s).rest = s.rest := rfl

@[simp] theorem fail_crc (k : LocalKind) (s : State) : (fail k s).crc = s.crc := rfl
@[simp] theorem fail_s3 (k : LocalKind) (s : State) : (fail k s).s3 = s.s3 := rfl
@[simp] theorem fail_s4 (k : LocalKind) (s : State) : (fail k s).s4 = s.s4 := rfl
@[simp] theorem fail_pwp (k : LocalKind) (s : State) : (fail k s).pwp = s.pwp := rfl
@[simp] theorem fail_pbuf (k : LocalKind) (s : State) : (fail k s).pbuf = s.pbuf := rfl
@[simp] theorem fail_alen (k : LocalKind) (s : State) : (fail k s).alen = s.alen := rfl
@[simp] theorem fail_idx (k : LocalKind) (s : State) : (fail k s).idx = s.idx := rfl
@[simp] theorem fail_rid (k : LocalKind) (s : State) : (fail k s).rid = s.rid := rfl
@[simp] theorem fail_rlen (k : LocalKind) (s : State) : (fail k s).rlen = s.rlen := rfl
@[simp] theorem fail_rinst (k : LocalKind) (s : State) : (fail k s).rinst = s.rinst := rfl
@[simp] theorem fail_rerr (k : LocalKind) (s : State) : (fail k s).rerr = s.rerr := rfl
@[simp] theorem fail_rem (k : LocalKind) (s : State) : (fail k s).rem = s.rem := rfl
@[simp] theorem fail_rcrc (k : LocalKind) (s : State) : (fail k s).rcrc = s.rcrc := rfl
@[simp] theorem fail_nlog (k : LocalKind) (s : State) : (fail k s).nlog = s.nlog := rfl
@[simp] theorem fail_skip (k : LocalKind) (s : State) : (fail k s).skip = false := rfl
@[simp] theorem fail_stat (k : LocalKind) (s : State) : (fail k s).stat = setAlert (setKind s.stat (kindCode k)) false := rfl
@[simp] theorem fail_ph (k : LocalKind) (s : State) : (fail k s).ph = .idle := rfl
@[simp] theorem fail_opId (k : LocalKind) (s : State) : (fail k s).opId = s.opId := rfl
@[simp] theorem fail_opInst (k : LocalKind) (s : State) : (fail k s).opInst = s.opInst := rfl
@[simp] theorem fail_opCe (k : LocalKind) (s : State) : (fail k s).opCe = s.opCe := rfl
@[simp] theorem fail_opCap (k : LocalKind) (s : State) : (fail k s).opCap = s.opCap := rfl
@[simp] theorem fail_held (k : LocalKind) (s : State) : (fail k s).held = s.held := rfl
@[simp] theorem fail_pbufSize (k : LocalKind) (s : State) : (fail k s).pbufSize = s.pbufSize := rfl
@[simp] theorem fail_cmds (k : LocalKind) (s : State) : (fail k s).cmds = s.cmds := rfl
@[simp] theorem fail_rx (k : LocalKind) (s : State) : (fail k s).rx = s.rx := rfl
@[simp] theorem fail_trace (k : LocalKind) (s : State) : (fail k s).trace = s.trace := rfl
@[simp] theorem fail_turns (k : LocalKind) (s : State) : (fail k s).turns = s.turns := rfl
@[simp] theorem fail_rest (k : LocalKind) (s : State) : (fail k s).rest = s.rest := rfl

@[simp] theorem reportDevice_crc (s : State) : (reportDevice s).crc = s.crc := rfl
@[simp] theorem reportDevice_s3 (s : State) : (reportDevice s).s3 = s.s3 := rfl
@[simp] theorem reportDevice_s4 (s : State) : (reportDevice s).s4 = s.s4 := rfl
@[simp] theorem reportDevice_pwp (s : State) : (reportDevice s).pwp = s.pwp := rfl
@[simp] theorem reportDevice_pbuf (s : State) : (reportDevice s).pbuf = s.pbuf := rfl
@[simp] theorem reportDevice_alen (s : State) : (reportDevice s).alen = s.alen := rfl
@[simp] theorem reportDevice_idx (s : State) : (reportDevice s).idx = s.idx := rfl
@[simp] theorem reportDevice_rid (s : State) : (reportDevice s).rid = s.rid := rfl
@[simp] theorem reportDevice_rlen (s : State) : (reportDevice s).rlen = s.rlen := rfl
@[simp] theorem reportDevice_rinst (s : State) : (reportDevice s).rinst = s.rinst := rfl
@[simp] theorem reportDevice_rerr (s : State) : (reportDevice s).rerr = s.rerr := rfl
@[simp] theorem reportDevice_rem (s : State) : (reportDevice s).rem = s.rem := rfl
@[simp] theorem reportDevice_rcrc (s : State) : (reportDevice s).rcrc = s.rcrc := rfl
@[simp] theorem reportDevice_nlog (s : State) : (reportDevice s).nlog = s.nlog := rfl
@[simp] theorem reportDevice_skip (s : State) : (reportDevice s).skip = false := rfl
@[simp] theorem reportDevice_stat (s : State) : (reportDevice s).stat = setAlert (setKind s.stat (errKind s.rerr)) (errAlert s.rerr) := rfl
@[simp] theorem reportDevice_ph (s : State) : (reportDevice s).ph = .idle := rfl
@[simp] theorem reportDevice_opId (s : State) : (reportDevice s).opId = s.opId := rfl
@[simp] theorem reportDevice_opInst (s : State) : (reportDevice s).opInst = s.opInst := rfl
@[simp] theorem reportDevice_opCe (s : State) : (reportDevice s).opCe = s.opCe := rfl
@[simp] theorem reportDevice_opCap (s : State) : (reportDevice s).opCap = s.opCap := rfl
@[simp] theorem reportDevice_held (s : State) : (reportDevice s).held = s.held := rfl
@[simp] theorem reportDevice_pbufSize (s : State) : (reportDevice s).pbufSize = s.pbufSize := rfl
@[simp] theorem reportDevice_cmds (s : State) : (reportDevice s).cmds = s.cmds := rfl
@[simp] theorem reportDevice_rx (s : State) : (reportDevice s).rx = s.rx := rfl
@[simp] theorem reportDevice_trace (s : State) : (reportDevice s).trace = s.trace := rfl
@[simp] theorem reportDevice_turns (s : State) : (reportDevice s).turns = s.turns := rfl
@[simp] theorem reportDevice_rest (s : State) : (reportDevice s).rest = s.rest := rfl

@[simp] theorem reportOk_crc (s : State) : (reportOk s).crc = s.crc := rfl
@[simp] theorem reportOk_s3 (s : State) : (reportOk s).s3 = s.s3 := rfl
@[simp] theorem reportOk_s4 (s : State) : (reportOk s).s4 = s.s4 := rfl
@[simp] theorem reportOk_pwp (s : State) : (reportOk s).pwp = s.pwp := rfl
@[simp] theorem reportOk_pbuf (s : State) : (reportOk s).pbuf = s.pbuf := rfl
@[simp] theorem reportOk_alen (s : State) : (reportOk s).alen = s.alen := rfl
@[simp] theorem reportOk_idx (s : State) : (reportOk s).idx = s.idx := rfl
@[simp] theorem reportOk_rid (s : State) : (reportOk s).rid = s.rid := rfl
@[simp] theorem reportOk_rlen (s : State) : (reportOk s).rlen = s.rlen := rfl
@[simp] theorem reportOk_rinst (s : State) : (reportOk s).rinst = s.rinst := rfl
@[simp] theorem reportOk_rerr (s : State) : (reportOk s).rerr = s.rerr := rfl
@[simp] theorem reportOk_rem (s : State) : (reportOk s).rem = s.rem := rfl
@[simp] theorem reportOk_rcrc (s : State) : (reportOk s).rcrc = s.rcrc := rfl
@[simp] theorem reportOk_nlog (s : State) : (reportOk s).nlog = s.nlog := rfl
@[simp] theorem reportOk_skip (s : State) : (reportOk s).skip = s.skip := rfl
@[simp] theorem reportOk_stat (s : State) : (reportOk s).stat = setKind s.stat 0x00#8 := rfl
@[simp] theorem reportOk_ph (s : State) : (reportOk s).ph = .idle := rfl
@[simp] theorem reportOk_opId (s : State) : (reportOk s).opId = s.opId := rfl
@[simp] theorem reportOk_opInst (s : State) : (reportOk s).opInst = s.opInst := rfl
@[simp] theorem reportOk_opCe (s : State) : (reportOk s).opCe = s.opCe := rfl
@[simp] theorem reportOk_opCap (s : State) : (reportOk s).opCap = s.opCap := rfl
@[simp] theorem reportOk_held (s : State) : (reportOk s).held = s.held := rfl
@[simp] theorem reportOk_pbufSize (s : State) : (reportOk s).pbufSize = s.pbufSize := rfl
@[simp] theorem reportOk_cmds (s : State) : (reportOk s).cmds = s.cmds := rfl
@[simp] theorem reportOk_rx (s : State) : (reportOk s).rx = s.rx := rfl
@[simp] theorem reportOk_trace (s : State) : (reportOk s).trace = s.trace := rfl
@[simp] theorem reportOk_turns (s : State) : (reportOk s).turns = s.turns := rfl
@[simp] theorem reportOk_rest (s : State) : (reportOk s).rest = s.rest := rfl

@[simp] theorem dropTurn_crc (s : State) : (dropTurn s).crc = s.crc := rfl
@[simp] theorem dropTurn_s3 (s : State) : (dropTurn s).s3 = s.s3 := rfl
@[simp] theorem dropTurn_s4 (s : State) : (dropTurn s).s4 = s.s4 := rfl
@[simp] theorem dropTurn_pwp (s : State) : (dropTurn s).pwp = s.pwp := rfl
@[simp] theorem dropTurn_pbuf (s : State) : (dropTurn s).pbuf = s.pbuf := rfl
@[simp] theorem dropTurn_alen (s : State) : (dropTurn s).alen = s.alen := rfl
@[simp] theorem dropTurn_idx (s : State) : (dropTurn s).idx = s.idx := rfl
@[simp] theorem dropTurn_rid (s : State) : (dropTurn s).rid = s.rid := rfl
@[simp] theorem dropTurn_rlen (s : State) : (dropTurn s).rlen = s.rlen := rfl
@[simp] theorem dropTurn_rinst (s : State) : (dropTurn s).rinst = s.rinst := rfl
@[simp] theorem dropTurn_rerr (s : State) : (dropTurn s).rerr = s.rerr := rfl
@[simp] theorem dropTurn_rem (s : State) : (dropTurn s).rem = s.rem := rfl
@[simp] theorem dropTurn_rcrc (s : State) : (dropTurn s).rcrc = s.rcrc := rfl
@[simp] theorem dropTurn_nlog (s : State) : (dropTurn s).nlog = s.nlog := rfl
@[simp] theorem dropTurn_skip (s : State) : (dropTurn s).skip = s.skip := rfl
@[simp] theorem dropTurn_stat (s : State) : (dropTurn s).stat = s.stat := rfl
@[simp] theorem dropTurn_ph (s : State) : (dropTurn s).ph = s.ph := rfl
@[simp] theorem dropTurn_opId (s : State) : (dropTurn s).opId = s.opId := rfl
@[simp] theorem dropTurn_opInst (s : State) : (dropTurn s).opInst = s.opInst := rfl
@[simp] theorem dropTurn_opCe (s : State) : (dropTurn s).opCe = s.opCe := rfl
@[simp] theorem dropTurn_opCap (s : State) : (dropTurn s).opCap = s.opCap := rfl
@[simp] theorem dropTurn_held (s : State) : (dropTurn s).held = s.held := rfl
@[simp] theorem dropTurn_pbufSize (s : State) : (dropTurn s).pbufSize = s.pbufSize := rfl
@[simp] theorem dropTurn_cmds (s : State) : (dropTurn s).cmds = s.cmds := rfl
@[simp] theorem dropTurn_rx (s : State) : (dropTurn s).rx = s.rx := rfl
@[simp] theorem dropTurn_trace (s : State) : (dropTurn s).trace = s.trace := rfl
@[simp] theorem dropTurn_turns (s : State) : (dropTurn s).turns = s.turns.tail := rfl
@[simp] theorem dropTurn_rest (s : State) : (dropTurn s).rest = s.rest := rfl

@[simp] theorem acceptWord_crc (ws : List Word) (s : State) : (acceptWord ws s).crc = s.crc := rfl
@[simp] theorem acceptWord_s3 (ws : List Word) (s : State) : (acceptWord ws s).s3 = s.s3 := rfl
@[simp] theorem acceptWord_s4 (ws : List Word) (s : State) : (acceptWord ws s).s4 = s.s4 := rfl
@[simp] theorem acceptWord_pwp (ws : List Word) (s : State) : (acceptWord ws s).pwp = s.pwp := rfl
@[simp] theorem acceptWord_pbuf (ws : List Word) (s : State) : (acceptWord ws s).pbuf = s.pbuf := rfl
@[simp] theorem acceptWord_alen (ws : List Word) (s : State) : (acceptWord ws s).alen = s.alen := rfl
@[simp] theorem acceptWord_idx (ws : List Word) (s : State) : (acceptWord ws s).idx = s.idx := rfl
@[simp] theorem acceptWord_rid (ws : List Word) (s : State) : (acceptWord ws s).rid = s.rid := rfl
@[simp] theorem acceptWord_rlen (ws : List Word) (s : State) : (acceptWord ws s).rlen = s.rlen := rfl
@[simp] theorem acceptWord_rinst (ws : List Word) (s : State) : (acceptWord ws s).rinst = s.rinst := rfl
@[simp] theorem acceptWord_rerr (ws : List Word) (s : State) : (acceptWord ws s).rerr = s.rerr := rfl
@[simp] theorem acceptWord_rem (ws : List Word) (s : State) : (acceptWord ws s).rem = s.rem := rfl
@[simp] theorem acceptWord_rcrc (ws : List Word) (s : State) : (acceptWord ws s).rcrc = s.rcrc := rfl
@[simp] theorem acceptWord_nlog (ws : List Word) (s : State) : (acceptWord ws s).nlog = s.nlog := rfl
@[simp] theorem acceptWord_skip (ws : List Word) (s : State) : (acceptWord ws s).skip = s.skip := rfl
@[simp] theorem acceptWord_stat (ws : List Word) (s : State) : (acceptWord ws s).stat = s.stat := rfl
@[simp] theorem acceptWord_ph (ws : List Word) (s : State) : (acceptWord ws s).ph = s.ph := rfl
@[simp] theorem acceptWord_opId (ws : List Word) (s : State) : (acceptWord ws s).opId = s.opId := rfl
@[simp] theorem acceptWord_opInst (ws : List Word) (s : State) : (acceptWord ws s).opInst = s.opInst := rfl
@[simp] theorem acceptWord_opCe (ws : List Word) (s : State) : (acceptWord ws s).opCe = s.opCe := rfl
@[simp] theorem acceptWord_opCap (ws : List Word) (s : State) : (acceptWord ws s).opCap = s.opCap := rfl
@[simp] theorem acceptWord_held (ws : List Word) (s : State) : (acceptWord ws s).held = s.held := rfl
@[simp] theorem acceptWord_pbufSize (ws : List Word) (s : State) : (acceptWord ws s).pbufSize = s.pbufSize := rfl
@[simp] theorem acceptWord_cmds (ws : List Word) (s : State) : (acceptWord ws s).cmds = ws := rfl
@[simp] theorem acceptWord_rx (ws : List Word) (s : State) : (acceptWord ws s).rx = s.rx := rfl
@[simp] theorem acceptWord_trace (ws : List Word) (s : State) : (acceptWord ws s).trace = s.trace := rfl
@[simp] theorem acceptWord_turns (ws : List Word) (s : State) : (acceptWord ws s).turns = s.turns := rfl
@[simp] theorem acceptWord_rest (ws : List Word) (s : State) : (acceptWord ws s).rest = s.rest := rfl

@[simp] theorem sendByte_crc (b : Byte) (s : State) : (sendByte b s).crc = adv s.crc b := rfl
@[simp] theorem sendByte_s3 (b : Byte) (s : State) : (sendByte b s).s3 = s.s3 := rfl
@[simp] theorem sendByte_s4 (b : Byte) (s : State) : (sendByte b s).s4 = s.s4 := rfl
@[simp] theorem sendByte_pwp (b : Byte) (s : State) : (sendByte b s).pwp = s.pwp := rfl
@[simp] theorem sendByte_pbuf (b : Byte) (s : State) : (sendByte b s).pbuf = s.pbuf := rfl
@[simp] theorem sendByte_alen (b : Byte) (s : State) : (sendByte b s).alen = s.alen := rfl
@[simp] theorem sendByte_idx (b : Byte) (s : State) : (sendByte b s).idx = s.idx := rfl
@[simp] theorem sendByte_rid (b : Byte) (s : State) : (sendByte b s).rid = s.rid := rfl
@[simp] theorem sendByte_rlen (b : Byte) (s : State) : (sendByte b s).rlen = s.rlen := rfl
@[simp] theorem sendByte_rinst (b : Byte) (s : State) : (sendByte b s).rinst = s.rinst := rfl
@[simp] theorem sendByte_rerr (b : Byte) (s : State) : (sendByte b s).rerr = s.rerr := rfl
@[simp] theorem sendByte_rem (b : Byte) (s : State) : (sendByte b s).rem = s.rem := rfl
@[simp] theorem sendByte_rcrc (b : Byte) (s : State) : (sendByte b s).rcrc = s.rcrc := rfl
@[simp] theorem sendByte_nlog (b : Byte) (s : State) : (sendByte b s).nlog = s.nlog := rfl
@[simp] theorem sendByte_skip (b : Byte) (s : State) : (sendByte b s).skip = s.skip := rfl
@[simp] theorem sendByte_stat (b : Byte) (s : State) : (sendByte b s).stat = s.stat := rfl
@[simp] theorem sendByte_ph (b : Byte) (s : State) : (sendByte b s).ph = s.ph := rfl
@[simp] theorem sendByte_opId (b : Byte) (s : State) : (sendByte b s).opId = s.opId := rfl
@[simp] theorem sendByte_opInst (b : Byte) (s : State) : (sendByte b s).opInst = s.opInst := rfl
@[simp] theorem sendByte_opCe (b : Byte) (s : State) : (sendByte b s).opCe = s.opCe := rfl
@[simp] theorem sendByte_opCap (b : Byte) (s : State) : (sendByte b s).opCap = s.opCap := rfl
@[simp] theorem sendByte_held (b : Byte) (s : State) : (sendByte b s).held = s.held := rfl
@[simp] theorem sendByte_pbufSize (b : Byte) (s : State) : (sendByte b s).pbufSize = s.pbufSize := rfl
@[simp] theorem sendByte_cmds (b : Byte) (s : State) : (sendByte b s).cmds = s.cmds := rfl
@[simp] theorem sendByte_rx (b : Byte) (s : State) : (sendByte b s).rx = s.rx := rfl
@[simp] theorem sendByte_trace (b : Byte) (s : State) : (sendByte b s).trace = s.trace ++ [.pushTx b] := rfl
@[simp] theorem sendByte_turns (b : Byte) (s : State) : (sendByte b s).turns = s.turns := rfl
@[simp] theorem sendByte_rest (b : Byte) (s : State) : (sendByte b s).rest = s.rest := rfl

@[simp] theorem sendThen_crc (b : Byte) (p : Phase) (s : State) : (sendThen b p s).crc = adv s.crc b := rfl
@[simp] theorem sendThen_s3 (b : Byte) (p : Phase) (s : State) : (sendThen b p s).s3 = s.s3 := rfl
@[simp] theorem sendThen_s4 (b : Byte) (p : Phase) (s : State) : (sendThen b p s).s4 = s.s4 := rfl
@[simp] theorem sendThen_pwp (b : Byte) (p : Phase) (s : State) : (sendThen b p s).pwp = s.pwp := rfl
@[simp] theorem sendThen_pbuf (b : Byte) (p : Phase) (s : State) : (sendThen b p s).pbuf = s.pbuf := rfl
@[simp] theorem sendThen_alen (b : Byte) (p : Phase) (s : State) : (sendThen b p s).alen = s.alen := rfl
@[simp] theorem sendThen_idx (b : Byte) (p : Phase) (s : State) : (sendThen b p s).idx = s.idx := rfl
@[simp] theorem sendThen_rid (b : Byte) (p : Phase) (s : State) : (sendThen b p s).rid = s.rid := rfl
@[simp] theorem sendThen_rlen (b : Byte) (p : Phase) (s : State) : (sendThen b p s).rlen = s.rlen := rfl
@[simp] theorem sendThen_rinst (b : Byte) (p : Phase) (s : State) : (sendThen b p s).rinst = s.rinst := rfl
@[simp] theorem sendThen_rerr (b : Byte) (p : Phase) (s : State) : (sendThen b p s).rerr = s.rerr := rfl
@[simp] theorem sendThen_rem (b : Byte) (p : Phase) (s : State) : (sendThen b p s).rem = s.rem := rfl
@[simp] theorem sendThen_rcrc (b : Byte) (p : Phase) (s : State) : (sendThen b p s).rcrc = s.rcrc := rfl
@[simp] theorem sendThen_nlog (b : Byte) (p : Phase) (s : State) : (sendThen b p s).nlog = s.nlog := rfl
@[simp] theorem sendThen_skip (b : Byte) (p : Phase) (s : State) : (sendThen b p s).skip = s.skip := rfl
@[simp] theorem sendThen_stat (b : Byte) (p : Phase) (s : State) : (sendThen b p s).stat = s.stat := rfl
@[simp] theorem sendThen_ph (b : Byte) (p : Phase) (s : State) : (sendThen b p s).ph = p := rfl
@[simp] theorem sendThen_opId (b : Byte) (p : Phase) (s : State) : (sendThen b p s).opId = s.opId := rfl
@[simp] theorem sendThen_opInst (b : Byte) (p : Phase) (s : State) : (sendThen b p s).opInst = s.opInst := rfl
@[simp] theorem sendThen_opCe (b : Byte) (p : Phase) (s : State) : (sendThen b p s).opCe = s.opCe := rfl
@[simp] theorem sendThen_opCap (b : Byte) (p : Phase) (s : State) : (sendThen b p s).opCap = s.opCap := rfl
@[simp] theorem sendThen_held (b : Byte) (p : Phase) (s : State) : (sendThen b p s).held = s.held := rfl
@[simp] theorem sendThen_pbufSize (b : Byte) (p : Phase) (s : State) : (sendThen b p s).pbufSize = s.pbufSize := rfl
@[simp] theorem sendThen_cmds (b : Byte) (p : Phase) (s : State) : (sendThen b p s).cmds = s.cmds := rfl
@[simp] theorem sendThen_rx (b : Byte) (p : Phase) (s : State) : (sendThen b p s).rx = s.rx := rfl
@[simp] theorem sendThen_trace (b : Byte) (p : Phase) (s : State) : (sendThen b p s).trace = s.trace ++ [.pushTx b] := rfl
@[simp] theorem sendThen_turns (b : Byte) (p : Phase) (s : State) : (sendThen b p s).turns = s.turns := rfl
@[simp] theorem sendThen_rest (b : Byte) (p : Phase) (s : State) : (sendThen b p s).rest = s.rest := rfl

@[simp] theorem paramLoop_crc (s : State) : (paramLoop s).crc = s.crc := rfl
@[simp] theorem paramLoop_s3 (s : State) : (paramLoop s).s3 = s.s3 := rfl
@[simp] theorem paramLoop_s4 (s : State) : (paramLoop s).s4 = s.s4 := rfl
@[simp] theorem paramLoop_pwp (s : State) : (paramLoop s).pwp = s.pwp := rfl
@[simp] theorem paramLoop_pbuf (s : State) : (paramLoop s).pbuf = s.pbuf := rfl
@[simp] theorem paramLoop_alen (s : State) : (paramLoop s).alen = s.alen := rfl
@[simp] theorem paramLoop_idx (s : State) : (paramLoop s).idx = s.idx := rfl
@[simp] theorem paramLoop_rid (s : State) : (paramLoop s).rid = s.rid := rfl
@[simp] theorem paramLoop_rlen (s : State) : (paramLoop s).rlen = s.rlen := rfl
@[simp] theorem paramLoop_rinst (s : State) : (paramLoop s).rinst = s.rinst := rfl
@[simp] theorem paramLoop_rerr (s : State) : (paramLoop s).rerr = s.rerr := rfl
@[simp] theorem paramLoop_rem (s : State) : (paramLoop s).rem = s.rem := rfl
@[simp] theorem paramLoop_rcrc (s : State) : (paramLoop s).rcrc = s.rcrc := rfl
@[simp] theorem paramLoop_nlog (s : State) : (paramLoop s).nlog = s.nlog := rfl
@[simp] theorem paramLoop_skip (s : State) : (paramLoop s).skip = s.skip := rfl
@[simp] theorem paramLoop_stat (s : State) : (paramLoop s).stat = s.stat := rfl
@[simp] theorem paramLoop_ph (s : State) : (paramLoop s).ph = if s.idx < s.pwp then .aPar else .aC0 := rfl
@[simp] theorem paramLoop_opId (s : State) : (paramLoop s).opId = s.opId := rfl
@[simp] theorem paramLoop_opInst (s : State) : (paramLoop s).opInst = s.opInst := rfl
@[simp] theorem paramLoop_opCe (s : State) : (paramLoop s).opCe = s.opCe := rfl
@[simp] theorem paramLoop_opCap (s : State) : (paramLoop s).opCap = s.opCap := rfl
@[simp] theorem paramLoop_held (s : State) : (paramLoop s).held = s.held := rfl
@[simp] theorem paramLoop_pbufSize (s : State) : (paramLoop s).pbufSize = s.pbufSize := rfl
@[simp] theorem paramLoop_cmds (s : State) : (paramLoop s).cmds = s.cmds := rfl
@[simp] theorem paramLoop_rx (s : State) : (paramLoop s).rx = s.rx := rfl
@[simp] theorem paramLoop_trace (s : State) : (paramLoop s).trace = s.trace := rfl
@[simp] theorem paramLoop_turns (s : State) : (paramLoop s).turns = s.turns := rfl
@[simp] theorem paramLoop_rest (s : State) : (paramLoop s).rest = s.rest := rfl

@[simp] theorem resetBlock_crc (s : State) : (resetBlock s).crc = State.reset.crc := rfl
@[simp] theorem resetBlock_s3 (s : State) : (resetBlock s).s3 = State.reset.s3 := rfl
@[simp] theorem resetBlock_s4 (s : State) : (resetBlock s).s4 = State.reset.s4 := rfl
@[simp] theorem resetBlock_pwp (s : State) : (resetBlock s).pwp = State.reset.pwp := rfl
@[simp] theorem resetBlock_pbuf (s : State) : (resetBlock s).pbuf = State.reset.pbuf := rfl
@[simp] theorem resetBlock_alen (s : State) : (resetBlock s).alen = State.reset.alen := rfl
@[simp] theorem resetBlock_idx (s : State) : (resetBlock s).idx = State.reset.idx := rfl
@[simp] theorem resetBlock_rid (s : State) : (resetBlock s).rid = State.reset.rid := rfl
@[simp] theorem resetBlock_rlen (s : State) : (resetBlock s).rlen = State.reset.rlen := rfl
@[simp] theorem resetBlock_rinst (s : State) : (resetBlock s).rinst = State.reset.rinst := rfl
@[simp] theorem resetBlock_rerr (s : State) : (resetBlock s).rerr = State.reset.rerr := rfl
@[simp] theorem resetBlock_rem (s : State) : (resetBlock s).rem = State.reset.rem := rfl
@[simp] theorem resetBlock_rcrc (s : State) : (resetBlock s).rcrc = State.reset.rcrc := rfl
@[simp] theorem resetBlock_nlog (s : State) : (resetBlock s).nlog = State.reset.nlog := rfl
@[simp] theorem resetBlock_skip (s : State) : (resetBlock s).skip = State.reset.skip := rfl
@[simp] theorem resetBlock_stat (s : State) : (resetBlock s).stat = State.reset.stat := rfl
@[simp] theorem resetBlock_ph (s : State) : (resetBlock s).ph = State.reset.ph := rfl
@[simp] theorem resetBlock_opId (s : State) : (resetBlock s).opId = State.reset.opId := rfl
@[simp] theorem resetBlock_opInst (s : State) : (resetBlock s).opInst = State.reset.opInst := rfl
@[simp] theorem resetBlock_opCe (s : State) : (resetBlock s).opCe = State.reset.opCe := rfl
@[simp] theorem resetBlock_opCap (s : State) : (resetBlock s).opCap = State.reset.opCap := rfl
@[simp] theorem resetBlock_held (s : State) : (resetBlock s).held = State.reset.held := rfl
@[simp] theorem resetBlock_pbufSize (s : State) : (resetBlock s).pbufSize = s.pbufSize := rfl
@[simp] theorem resetBlock_cmds (s : State) : (resetBlock s).cmds = s.cmds := rfl
@[simp] theorem resetBlock_rx (s : State) : (resetBlock s).rx = s.rx := rfl
@[simp] theorem resetBlock_trace (s : State) : (resetBlock s).trace = s.trace := rfl
@[simp] theorem resetBlock_turns (s : State) : (resetBlock s).turns = s.turns := rfl
@[simp] theorem resetBlock_rest (s : State) : (resetBlock s).rest = s.rest := rfl

end Sys2Proof.Machine
end

