-- ==== Sys2Proof/Laws/Ops.lean ====
section
/-! SUPPORT. For each shared operation, once, everything it can do; later proofs cite these instead of unfolding. -/

namespace Sys2Proof.Machine

/-- An instruction that answers a next state was held by a busy engine, or acted on the state with STAT cleared. -/
theorem accept_eq_next {act : State → Result} {s t : State} :
    accept act s = .next t ↔
      (s.ph ≠ .idle ∧ t = s) ∨ (s.ph = .idle ∧ act { s with stat := 0#11 } = .next t) := by
  unfold accept; split <;> simp_all [eq_comm]

theorem accept_idle {act : State → Result} {s : State} (h : s.ph = .idle) :
    accept act s = act { s with stat := 0#11 } := if_pos h

theorem accept_busy {act : State → Result} {s : State} (h : s.ph ≠ .idle) : accept act s = .next s := if_neg h

/-- A pull with nothing supplied waits; else it takes exactly the first byte. -/
theorem pullThen_cases (k : Byte → State → State) (s : State) :
    (s.rx = [] ∧ pullThen k s = s) ∨
      ∃ b bs, s.rx = b :: bs ∧ pullThen k s = k b (pulled b bs s) := by
  unfold pullThen; split
  · exact .inl ⟨by assumption, rfl⟩
  · exact .inr ⟨_, _, by assumption, rfl⟩

/-- The implicit operand exists exactly when `pwp <= PBUF_SIZE`. -/
theorem params_eq_some {s : State} {p : List Byte} :
    params s = some p ↔ s.pwp.toNat ≤ s.pbufSize.val ∧ p = pbufBytes s.pbuf s.pwp.toNat := by
  unfold params; split <;> simp_all [eq_comm]

theorem params_eq_none {s : State} : params s = none ↔ s.pbufSize.val < s.pwp.toNat := by
  unfold params; split <;> simp_all

@[simp] theorem pbufBytes_length (m : Memory) (n : Nat) : (pbufBytes m n).length = n := by simp [pbufBytes]

theorem pbufBytes_succ (m : Memory) (n : Nat) : pbufBytes m (n + 1) = pbufBytes m n ++ [memoryRead m n] := by
  simp [pbufBytes, List.range_succ]

/-- The parameter loop goes on exactly while `idx < pwp`. -/
theorem paramLoop_eq (s : State) :
    (s.idx < s.pwp ∧ paramLoop s = { s with ph := .aPar }) ∨
      (¬ s.idx < s.pwp ∧ paramLoop s = { s with ph := .aC0 }) := by
  unfold paramLoop; by_cases h : s.idx < s.pwp <;> simp [h]

/-- The raw loop ends exactly when `rem` is 0, and then a pending `skip` is cleared. -/
theorem rawLoop_eq (s : State) :
    (s.rem = 0x0000#16 ∧ rawLoop s = { s with skip := false, ph := .pC0 }) ∨
      (s.rem ≠ 0x0000#16 ∧ rawLoop s = { s with ph := .pRaw }) := by
  unfold rawLoop; by_cases h : s.rem = 0x0000#16 <;> simp [h]

/-- Everything steps 3 and 4 of PARSE can do. -/
theorem checkHead_eq (s : State) :
    (s.rinst ≠ statusMarker ∧ checkHead s = fail .notStatus s) ∨
    (s.rinst = statusMarker ∧ s.rlen < statusOverhead ∧ checkHead s = fail .badLength s) ∨
    (s.rinst = statusMarker ∧ ¬ s.rlen < statusOverhead ∧ s.opCe = true ∧ s.rlen - statusOverhead ≠ s.opCap ∧
      checkHead s = fail .badLength { s with rem := s.rlen - statusOverhead }) ∨
    (s.rinst = statusMarker ∧ ¬ s.rlen < statusOverhead ∧ (s.opCe = true → s.rlen - statusOverhead = s.opCap) ∧
      checkHead s = rawLoop { s with rem := s.rlen - statusOverhead }) := by
  unfold checkHead
  by_cases h1 : s.rinst = statusMarker
  · by_cases h2 : s.rlen < statusOverhead
    · simp [h1, h2]
    · by_cases h3 : s.opCe = true ∧ s.rlen - statusOverhead ≠ s.opCap
      · simp [h1, h2, h3]
      · have h4 : s.opCe = true → s.rlen - statusOverhead = s.opCap := fun h => by
          by_contra hne; exact h3 ⟨h, hne⟩
        right; right; right
        refine ⟨h1, h2, h4, ?_⟩
        simp only [h1, ne_eq, not_true, if_false, h2, h3]
  · simp [h1]

/-- Everything the end of PARSE can do, in the order the rules test. -/
theorem verdict_eq (s : State) :
    (s.rcrc ≠ s.crc ∧ verdict s = fail .receivedBadCrc s) ∨
    (s.rcrc = s.crc ∧ errKind s.rerr ≠ 0x00#8 ∧ verdict s = reportDevice s) ∨
    (s.rcrc = s.crc ∧ errKind s.rerr = 0x00#8 ∧ verdict s = reportOk s) := by
  unfold verdict
  by_cases h1 : s.rcrc = s.crc <;> by_cases h2 : errKind s.rerr = 0x00#8 <;> simp [h1, h2]

/-- Everything a step can do. -/
theorem step_cases (s : State) :
    (s.turn = .go ∧ step s = engine (dropTurn s)) ∨
    (s.turn = .wait ∧ step s = .next (dropTurn s)) ∨
    (s.turn = .reset ∧ step s = .next (resetBlock (dropTurn s))) := by
  unfold step; cases h : s.turn <;> simp

/-- Everything the engine can meet. -/
theorem fetch_cases (s : State) :
    (fetch s = .event s) ∨
    (∃ w ws i, s.ph = .idle ∧ s.cmds = w :: ws ∧ decodeCommand w = .instr i ∧ fetch s = .instr i (acceptWord ws s)) ∨
    (∃ w ws r, s.ph = .idle ∧ s.cmds = w :: ws ∧ decodeCommand w = .rejected r ∧ fetch s = .reserved (acceptWord ws s)) ∨
    (∃ b bs i, s.ph = .pInst ∧ s.rx = b :: bs ∧ decodeTag b = .instr i ∧ fetch s = .instr i (pulled b bs s)) ∨
    (∃ i, s.ph = .aInst ∧ decodeTag s.opInst = .instr i ∧ fetch s = .instr i s) := by
  unfold fetch
  split
  · rename_i hp
    unfold fetchCommand
    split
    · exact .inl rfl
    · rename_i w ws hc
      simp only [decode]
      cases hd : decodeCommand w with
      | instr i => exact .inr (.inl ⟨w, ws, i, hp, hc, hd, rfl⟩)
      | rejected r => exact .inr (.inr (.inl ⟨w, ws, r, hp, hc, hd, rfl⟩))
  · split
    · rename_i hp
      unfold fetchPulledTag
      split
      · exact .inl rfl
      · rename_i b bs hc
        simp only [decode]
        cases hd : decodeTag b with
        | instr i => exact .inr (.inr (.inr (.inl ⟨b, bs, i, hp, hc, hd, rfl⟩)))
        | rejected r => exact .inl rfl
    · split
      · rename_i hp
        unfold fetchSentTag
        simp only [decode]
        cases hd : decodeTag s.opInst with
        | instr i => exact .inr (.inr (.inr (.inr ⟨i, hp, rfl, rfl⟩)))
        | rejected r => exact .inl rfl
      · exact .inl rfl

/-- The instruction a tag byte decodes to handles exactly that byte. -/
theorem exec_of_decodeTag {b : Byte} {i : Instr} (h : decodeTag b = .instr i) (s : State) :
    exec i s = .next (instructionByte b s) := by
  have key : ∀ b : BitVec 8, ∀ i, decodeTag b = .instr i → (encode i = .tag b) := by
    intro b
    unfold decodeTag
    split <;> intro i hi <;> first
      | (cases hi; rename_i hb; simp only [encode, Code.tag.injEq]; exact (BitVec.eq_of_toNat_eq hb).symm)
      | cases hi
  have hb := key b i h
  cases i <;> simp only [encode, encodeN, encodeB, encodeH, encodeA, encodeP, Code.tag.injEq, reduceCtorEq] at hb <;>
    subst hb <;> rfl

/-- At the two phases that handle an Instruction byte, the engine does the same whether the byte is a named tag or
not: it pulls, or sends, the byte. -/
theorem engine_busy {s : State} (h : s.ph ≠ .idle) : engine s = portEvent s := by
  unfold engine
  rcases fetch_cases s with hf | ⟨w, ws, i, hp, _⟩ | ⟨w, ws, r, hp, _⟩ | ⟨b, bs, i, hp, hrx, hd, hf⟩ | ⟨i, hp, hd, hf⟩
  · rw [hf]
  · exact absurd hp h
  · exact absurd hp h
  · simp only [hf, exec_of_decodeTag hd, portEvent, hp, pullThen, hrx, instructionByte, pulled_ph]
  · simp only [hf, exec_of_decodeTag hd, portEvent, hp, instructionByte]

/-- At idle the engine takes the command word on the port, or stays. -/
theorem engine_idle {s : State} (h : s.ph = .idle) :
    (s.cmds = [] ∧ engine s = .next s) ∨
    (∃ w ws i, s.cmds = w :: ws ∧ decodeCommand w = .instr i ∧ engine s = exec i (acceptWord ws s)) ∨
    (∃ w ws r, s.cmds = w :: ws ∧ decodeCommand w = .rejected r ∧ engine s = .next (refuse (acceptWord ws s))) := by
  unfold engine fetch fetchCommand
  rw [if_pos h]
  cases hc : s.cmds with
  | nil => exact .inl ⟨rfl, by simp [portEvent, h]⟩
  | cons w ws =>
    cases hd : decodeCommand w with
    | instr i => exact .inr (.inl ⟨w, ws, i, rfl, hd, by simp [decode, hd]⟩)
    | rejected r => exact .inr (.inr ⟨w, ws, r, rfl, hd, by simp [decode, hd]⟩)

end Sys2Proof.Machine
end

