-- ==== Sys2Proof/Laws/PerInstr.lean ====
section
/-! SUPPORT. Statements for all instructions, one lemma per constructor. -/

namespace Sys2Proof.Laws

/-- An instruction's bits spell the row of the opcode table that has its mnemonic: a command word under the row's
mask is the row's pattern (R72), a wire tag is one of the sixteen named bytes (R212). -/
def SpellsItsRow.Statement (i : Instr) : Prop :=
  match encode i with
  | .command w => ∃ r ∈ commandRows, r.mnemonic = i.mnemonic ∧ r.spells w = true
  | .tag b => b ∈ tagBytes

/-- The bits that a mask of leading ones keeps of a concatenation are the leading part. -/
theorem and_mask_B (op : BitVec 4) (b : Byte) :
    ((op ++ 0#20 ++ b : Word) &&& 0xFFFFFF00#32) = op ++ 0#20 ++ 0#8 := by
  ext i hi
  simp only [BitVec.getElem_and, BitVec.getElem_append]
  split
  · rename_i h
    have : ∀ i : Fin 8, (0xFFFFFF00#32).getLsbD i = false := by decide
    have h2 := this ⟨i, h⟩
    rw [BitVec.getLsbD_eq_getElem hi] at h2
    simp [h2]
  · rename_i h
    have : ∀ i : Fin 32, 8 ≤ i.val → (0xFFFFFF00#32).getLsbD i = true := by decide
    have h2 := this ⟨i, hi⟩ (Nat.le_of_not_lt h)
    rw [BitVec.getLsbD_eq_getElem hi] at h2
    simp [h2]

theorem and_mask_H (op : BitVec 4) (v : Half) :
    ((op ++ 0#12 ++ v : Word) &&& 0xFFFF0000#32) = op ++ 0#12 ++ 0#16 := by
  ext i hi
  simp only [BitVec.getElem_and, BitVec.getElem_append]
  split
  · rename_i h
    have : ∀ i : Fin 16, (0xFFFF0000#32).getLsbD i = false := by decide
    have h2 := this ⟨i, h⟩
    rw [BitVec.getLsbD_eq_getElem hi] at h2
    simp [h2]
  · rename_i h
    have : ∀ i : Fin 32, 16 ≤ i.val → (0xFFFF0000#32).getLsbD i = true := by decide
    have h2 := this ⟨i, hi⟩ (Nat.le_of_not_lt h)
    rw [BitVec.getLsbD_eq_getElem hi] at h2
    simp [h2]

theorem and_mask_A (op : BitVec 4) (id inst : Byte) :
    ((op ++ 0#12 ++ id ++ inst : Word) &&& 0xFFFF0000#32) = op ++ 0#12 ++ 0#16 := by
  have h : (op ++ 0#12 ++ id ++ inst : Word) = op ++ 0#12 ++ (id ++ inst : Half) := by
    rw [BitVec.append_assoc]; simp
  rw [h, and_mask_H]

theorem and_mask_P (op : BitVec 4) (ce : Bool) (cap : Half) :
    ((op ++ 0#11 ++ BitVec.ofBool ce ++ cap : Word) &&& 0xFFFE0000#32) = op ++ 0#11 ++ 0#17 := by
  ext i hi
  simp only [BitVec.getElem_and, BitVec.getElem_append]
  by_cases h : i < 17
  · have : ∀ i : Fin 17, (0xFFFE0000#32).getLsbD i = false := by decide
    have h2 := this ⟨i, h⟩
    rw [BitVec.getLsbD_eq_getElem hi] at h2
    simp [h2, h]
  · have : ∀ i : Fin 32, 17 ≤ i.val → (0xFFFE0000#32).getLsbD i = true := by decide
    have h2 := this ⟨i, hi⟩ (Nat.le_of_not_lt h)
    rw [BitVec.getLsbD_eq_getElem hi] at h2
    have h3 : ¬ i < 16 := by omega
    have h4 : ¬ i - 16 < 1 := by omega
    have h5 : i - 16 - 1 = i - 17 := by omega
    simp [h2, h, h3, h4, h5]

theorem SpellsItsRow.crcClr : SpellsItsRow.Statement .crcClr :=
  ⟨commandRows[0], List.getElem_mem _, rfl, by decide⟩

theorem SpellsItsRow.crcLd (v : Half) : SpellsItsRow.Statement (.crcLd v) := by
  refine ⟨commandRows[1], List.getElem_mem _, rfl, ?_⟩
  simp only [Row.spells, beq_iff_eq]
  exact (and_mask_H 0x2#4 v).trans (by decide)

theorem SpellsItsRow.crcAdv (b : Byte) : SpellsItsRow.Statement (.crcAdv b) := by
  refine ⟨commandRows[2], List.getElem_mem _, rfl, ?_⟩
  simp only [Row.spells, beq_iff_eq]
  exact (and_mask_B 0x3#4 b).trans (by decide)

theorem SpellsItsRow.crcFold : SpellsItsRow.Statement .crcFold :=
  ⟨commandRows[3], List.getElem_mem _, rfl, by decide⟩

theorem SpellsItsRow.s3Clr : SpellsItsRow.Statement .s3Clr :=
  ⟨commandRows[4], List.getElem_mem _, rfl, by decide⟩

theorem SpellsItsRow.s3Feed (b : Byte) : SpellsItsRow.Statement (.s3Feed b) := by
  refine ⟨commandRows[5], List.getElem_mem _, rfl, ?_⟩
  simp only [Row.spells, beq_iff_eq]
  exact (and_mask_B 0x6#4 b).trans (by decide)

theorem SpellsItsRow.s4Clr : SpellsItsRow.Statement .s4Clr :=
  ⟨commandRows[6], List.getElem_mem _, rfl, by decide⟩

theorem SpellsItsRow.s4Feed (b : Byte) : SpellsItsRow.Statement (.s4Feed b) := by
  refine ⟨commandRows[7], List.getElem_mem _, rfl, ?_⟩
  simp only [Row.spells, beq_iff_eq]
  exact (and_mask_B 0x8#4 b).trans (by decide)

theorem SpellsItsRow.pbClr : SpellsItsRow.Statement .pbClr :=
  ⟨commandRows[8], List.getElem_mem _, rfl, by decide⟩

theorem SpellsItsRow.pbPush (b : Byte) : SpellsItsRow.Statement (.pbPush b) := by
  refine ⟨commandRows[9], List.getElem_mem _, rfl, ?_⟩
  simp only [Row.spells, beq_iff_eq]
  exact (and_mask_B 0xA#4 b).trans (by decide)

theorem SpellsItsRow.asm (id : Byte) (inst : Byte) : SpellsItsRow.Statement (.asm id inst) := by
  refine ⟨commandRows[10], List.getElem_mem _, rfl, ?_⟩
  simp only [Row.spells, beq_iff_eq]
  exact (and_mask_A 0xB#4 id inst).trans (by decide)

theorem SpellsItsRow.hunt : SpellsItsRow.Statement .hunt :=
  ⟨commandRows[11], List.getElem_mem _, rfl, by decide⟩

theorem SpellsItsRow.parse (ce : Bool) (cap : Half) : SpellsItsRow.Statement (.parse ce cap) := by
  refine ⟨commandRows[12], List.getElem_mem _, rfl, ?_⟩
  simp only [Row.spells, beq_iff_eq]
  exact (and_mask_P 0xD#4 ce cap).trans (by decide)

theorem SpellsItsRow.ping : SpellsItsRow.Statement .ping := by
  show (0x01#8 : Byte) ∈ tagBytes
  decide

theorem SpellsItsRow.read : SpellsItsRow.Statement .read := by
  show (0x02#8 : Byte) ∈ tagBytes
  decide

theorem SpellsItsRow.write : SpellsItsRow.Statement .write := by
  show (0x03#8 : Byte) ∈ tagBytes
  decide

theorem SpellsItsRow.regWrite : SpellsItsRow.Statement .regWrite := by
  show (0x04#8 : Byte) ∈ tagBytes
  decide

theorem SpellsItsRow.action : SpellsItsRow.Statement .action := by
  show (0x05#8 : Byte) ∈ tagBytes
  decide

theorem SpellsItsRow.factoryReset : SpellsItsRow.Statement .factoryReset := by
  show (0x06#8 : Byte) ∈ tagBytes
  decide

theorem SpellsItsRow.reboot : SpellsItsRow.Statement .reboot := by
  show (0x08#8 : Byte) ∈ tagBytes
  decide

theorem SpellsItsRow.clear : SpellsItsRow.Statement .clear := by
  show (0x10#8 : Byte) ∈ tagBytes
  decide

theorem SpellsItsRow.controlTableBackup : SpellsItsRow.Statement .controlTableBackup := by
  show (0x20#8 : Byte) ∈ tagBytes
  decide

theorem SpellsItsRow.returnStatus : SpellsItsRow.Statement .returnStatus := by
  show (0x55#8 : Byte) ∈ tagBytes
  decide

theorem SpellsItsRow.syncRead : SpellsItsRow.Statement .syncRead := by
  show (0x82#8 : Byte) ∈ tagBytes
  decide

theorem SpellsItsRow.syncWrite : SpellsItsRow.Statement .syncWrite := by
  show (0x83#8 : Byte) ∈ tagBytes
  decide

theorem SpellsItsRow.fastSyncRead : SpellsItsRow.Statement .fastSyncRead := by
  show (0x8A#8 : Byte) ∈ tagBytes
  decide

theorem SpellsItsRow.bulkRead : SpellsItsRow.Statement .bulkRead := by
  show (0x92#8 : Byte) ∈ tagBytes
  decide

theorem SpellsItsRow.bulkWrite : SpellsItsRow.Statement .bulkWrite := by
  show (0x93#8 : Byte) ∈ tagBytes
  decide

theorem SpellsItsRow.fastBulkRead : SpellsItsRow.Statement .fastBulkRead := by
  show (0x9A#8 : Byte) ∈ tagBytes
  decide

end Sys2Proof.Laws
end

