-- ==== Sys2Proof/Laws/Sentry.lean ====
section
/-! SUPPORT. The sentry's step function: its three arms said once for each match length, and its folds over
lists. -/

namespace Sys2Proof.Machine

/-- Everything a step of the 3-byte sentry can do. -/
theorem feed_three (c : Fin 3) (b : Byte) : feed 3 c b =
    if c = 0 then (if b = 0xFF#8 then (1, false) else (0, false))
    else if c = 1 then (if b = 0xFF#8 then (2, false) else (0, false))
    else if b = 0xFD#8 then (0, true) else if b = 0xFF#8 then (2, false) else (0, false) := by
  have key : ∀ c : Fin 3, ∀ b : BitVec 8, feed 3 c b =
      if c = 0 then (if b = 0xFF#8 then (1, false) else (0, false))
      else if c = 1 then (if b = 0xFF#8 then (2, false) else (0, false))
      else if b = 0xFD#8 then (0, true) else if b = 0xFF#8 then (2, false) else (0, false) := by decide +kernel
  exact key c b

/-- Everything a step of the 4-byte sentry can do. -/
theorem feed_four (c : Fin 4) (b : Byte) : feed 4 c b =
    if c = 0 then (if b = 0xFF#8 then (1, false) else (0, false))
    else if c = 1 then (if b = 0xFF#8 then (2, false) else (0, false))
    else if c = 2 then (if b = 0xFD#8 then (3, false) else if b = 0xFF#8 then (2, false) else (0, false))
    else if b = 0x00#8 then (0, true) else (0, false) := by
  have key : ∀ c : Fin 4, ∀ b : BitVec 8, feed 4 c b =
      if c = 0 then (if b = 0xFF#8 then (1, false) else (0, false))
      else if c = 1 then (if b = 0xFF#8 then (2, false) else (0, false))
      else if c = 2 then (if b = 0xFD#8 then (3, false) else if b = 0xFF#8 then (2, false) else (0, false))
      else if b = 0x00#8 then (0, true) else (0, false) := by decide +kernel
  exact key c b

/-- After a match the count is 0. -/
theorem feed_match {n : Nat} {c : Fin n} {b : Byte} (h : (feed n c b).2 = true) : ((feed n c b).1).val = 0 := by
  unfold feed at h ⊢; split <;> simp_all

@[simp] theorem feedAll_nil (n : Nat) (c : Fin n) : feedAll n c [] = c := rfl
@[simp] theorem feedAll_cons (n : Nat) (c : Fin n) (b : Byte) (bs : List Byte) :
    feedAll n c (b :: bs) = feedAll n (feed n c b).1 bs := rfl
theorem feedAll_append (n : Nat) (c : Fin n) (xs ys : List Byte) :
    feedAll n c (xs ++ ys) = feedAll n (feedAll n c xs) ys := by simp [feedAll]

@[simp] theorem stuffCountFrom_nil (c : Fin 3) : stuffCountFrom c [] = 0 := rfl
theorem stuffCountFrom_cons (c : Fin 3) (b : Byte) (bs : List Byte) :
    stuffCountFrom c (b :: bs) = (feed 3 c b).2.toNat + stuffCountFrom (feed 3 c b).1 bs := rfl
@[simp] theorem stuffFrom_nil (c : Fin 3) : stuffFrom c [] = [] := rfl
theorem stuffFrom_cons (c : Fin 3) (b : Byte) (bs : List Byte) :
    stuffFrom c (b :: bs) = if (feed 3 c b).2 then b :: stuffByte :: stuffFrom (feed 3 c b).1 bs
      else b :: stuffFrom (feed 3 c b).1 bs := rfl
@[simp] theorem destuffFrom_nil (c : Fin 3) (k : Bool) : destuffFrom c k [] = [] := rfl
@[simp] theorem destuffFrom_skip (c : Fin 3) (b : Byte) (bs : List Byte) :
    destuffFrom c true (b :: bs) = destuffFrom c false bs := rfl
@[simp] theorem destuffFrom_keep (c : Fin 3) (b : Byte) (bs : List Byte) :
    destuffFrom c false (b :: bs) = b :: destuffFrom (feed 3 c b).1 (feed 3 c b).2 bs := rfl

end Sys2Proof.Machine
end

