-- ==== Sys2Proof/Tests/Slice0.lean ====
section
/-! SUPPORT. The model's own tests: ill-formed bits refused, the words of every instruction read as written out from
30_encoding and 45_wire_tags, single steps against 95_test_vectors, and for each statement with hypotheses a concrete
state that meets them. -/

namespace Sys2Proof.Tests

open Sys2Proof Sys2Proof.Machine

/-- The reset state with `PBUF_SIZE = 8`, as the vectors assume. -/
def small : State := { State.reset with pbufSize := 8 }

/-- `small` with the parameter bytes `bs` in its buffer. -/
def holding (bs : List Byte) : State :=
  { small with
    pwp := BitVec.ofNat 16 bs.length
    pbuf := bs.zipIdx.foldl (fun m c => memoryWrite m c.2 c.1) [] }

/-- The host presents `w`. -/
def give (w : Word) (s : State) : State := { s with cmds := [w] }

/-- The result is a next state of which `p` holds. -/
def gives (r : Result) (p : State → Bool) : Bool :=
  match r with
  | .next t => p t
  | .fault _ => false
  | .refused _ => false

/-- The next state of a step that has one. -/
def after (s : State) : State :=
  match step s with
  | .next t => t
  | .fault _ => s
  | .refused _ => s

/-! ## Well-formedness: an ill-formed term for each check -/

theorem test_reserved_opcodes_ill_formed :
    [0x00000000#32, 0x0FFFFFFF#32, 0xE0000000#32, 0xF0000000#32, 0xFFFFFFFF#32].all
      (fun w => !opcodeAssigned w && !wellFormedWord w) = true := by decide

theorem test_format_N_ill_formed : wellFormedWord 0x10000001#32 = false ∧ wellFormedWord 0xC8000000#32 = false := by
  decide

theorem test_format_B_ill_formed : reservedBitsClear 0x30000100#32 = false ∧ wellFormedWord 0x300000FF#32 = true := by
  decide

theorem test_format_H_ill_formed : reservedBitsClear 0x20010000#32 = false ∧ wellFormedWord 0x2000FFFF#32 = true := by
  decide

theorem test_format_A_ill_formed : reservedBitsClear 0xB0010102#32 = false ∧ wellFormedWord 0xB000FFFF#32 = true := by
  decide

theorem test_format_P_ill_formed : reservedBitsClear 0xD0020004#32 = false ∧ wellFormedWord 0xD001FFFF#32 = true := by
  decide

theorem test_tag_ill_formed : (Code.tag 0x07#8).wellFormed = false ∧ (Code.tag 0x55#8).wellFormed = true := by decide

/-! ## Decoding: the words written out field by field (R71), opcode first -/

theorem test_decode_format_N :
    decodeCommand (0b0001#4 ++ 0#28) = .instr .crcClr ∧ decodeCommand (0b0100#4 ++ 0#28) = .instr .crcFold ∧
    decodeCommand (0b0101#4 ++ 0#28) = .instr .s3Clr ∧ decodeCommand (0b0111#4 ++ 0#28) = .instr .s4Clr ∧
    decodeCommand (0b1001#4 ++ 0#28) = .instr .pbClr ∧ decodeCommand (0b1100#4 ++ 0#28) = .instr .hunt := by decide

theorem test_decode_format_B :
    decodeCommand (0b0011#4 ++ 0#20 ++ 0x84#8) = .instr (.crcAdv 0x84#8) ∧
    decodeCommand (0b0110#4 ++ 0#20 ++ 0xFD#8) = .instr (.s3Feed 0xFD#8) ∧
    decodeCommand (0b1000#4 ++ 0#20 ++ 0xFF#8) = .instr (.s4Feed 0xFF#8) ∧
    decodeCommand (0b1010#4 ++ 0#20 ++ 0x84#8) = .instr (.pbPush 0x84#8) := by decide

theorem test_decode_format_H :
    decodeCommand (0b0010#4 ++ 0#12 ++ 0b0000111000101000#16) = .instr (.crcLd 0x0E28#16) := by decide

theorem test_decode_format_A :
    decodeCommand (0b1011#4 ++ 0#12 ++ 0x01#8 ++ 0x02#8) = .instr (.asm 0x01#8 0x02#8) := by decide

theorem test_decode_format_P :
    decodeCommand (0b1101#4 ++ 0#11 ++ 0b1#1 ++ 0x0004#16) = .instr (.parse true 0x0004#16) ∧
    decodeCommand (0b1101#4 ++ 0#11 ++ 0b0#1 ++ 0x1234#16) = .instr (.parse false 0x1234#16) := by decide

/-- 95_test_vectors section 2.4: the refused words. -/
theorem test_decode_refuses :
    [0x10000001#32, 0x20010000#32, 0x30000100#32, 0xB0010102#32, 0xC8000000#32, 0xD0020004#32].all
      (fun w => decodeCommand w == .rejected .reservedBits) = true ∧
    [0x00000000#32, 0x0FFFFFFF#32, 0xE0000000#32, 0xF0000000#32, 0xFFFFFFFF#32].all
      (fun w => decodeCommand w == .rejected .reservedOpcode) = true := by decide

/-- The values of R213 to R228, in binary. -/
theorem test_decode_tags :
    [(0b00000001, Instr.ping), (0b00000010, .read), (0b00000011, .write), (0b00000100, .regWrite),
     (0b00000101, .action), (0b00000110, .factoryReset), (0b00001000, .reboot), (0b00010000, .clear),
     (0b00100000, .controlTableBackup), (0b01010101, .returnStatus), (0b10000010, .syncRead),
     (0b10000011, .syncWrite), (0b10001010, .fastSyncRead), (0b10010010, .bulkRead), (0b10010011, .bulkWrite),
     (0b10011010, .fastBulkRead)].all (fun p => decodeTableWord 8 p.1 == some p.2) = true := by decide

theorem test_decode_table_width : decodeTableWord 8 0x07 = none ∧ decodeTableWord 16 0x01 = none ∧
    decodeTableWord 8 0x101 = none ∧ decodeTableWord 32 0xB0000102 = some (.asm 0x01#8 0x02#8) := by decide

/-! ## Single steps (the vector's number in the name) -/

theorem test_V16_crcClr : gives (step (give 0x10000000#32 { small with crc := 0x1234#16 }))
    (fun t => t.crc == 0x0000#16 && t.stat == 0#11) = true := by decide +kernel

theorem test_V17_crcLd : gives (step (give 0x2000FFFF#32 small)) (fun t => t.crc == 0xFFFF#16) = true := by
  decide +kernel

theorem test_V18_crcAdv : gives (step (give 0x30000056#32 { small with crc := 0x1234#16 }))
    (fun t => t.crc == 0x3598#16) = true := by decide +kernel

theorem test_V20_crcFold : gives (step (give 0x40000000#32 (holding [0x84#8, 0x00#8, 0x04#8, 0x00#8])))
    (fun t => t.crc == 0xC83F#16 && t.pwp == 4) = true := by decide +kernel

theorem test_V22_crcFold_adds_no_stuffing :
    gives (step (give 0x40000000#32 (holding [0xFF#8, 0xFF#8, 0xFD#8]))) (fun t => t.crc == 0x0C0E#16) = true := by
  decide +kernel

theorem test_V51_s3Feed_match : gives (step (give 0x600000FD#32 { small with s3 := 2 }))
    (fun t => t.s3 == 0 && t.stat == 0x200#11) = true := by decide +kernel

theorem test_V52_s3Feed_stay : gives (step (give 0x600000FF#32 { small with s3 := 2 }))
    (fun t => t.s3 == 2 && t.stat == 0#11) = true := by decide +kernel

theorem test_V53_s4Feed_match : gives (step (give 0x80000000#32 { small with s4 := 3 }))
    (fun t => t.s4 == 0 && t.stat == 0x200#11) = true := by decide +kernel

theorem test_V54_s4Feed_reset : gives (step (give 0x800000FF#32 { small with s4 := 3 }))
    (fun t => t.s4 == 0 && t.stat == 0#11) = true := by decide +kernel

theorem test_V55_s4Clr : gives (step (give 0x70000000#32 { small with s4 := 3 }))
    (fun t => t.s4 == 0 && t.stat == 0#11) = true := by decide +kernel

theorem test_V56_s3Clr : gives (step (give 0x50000000#32 { small with s3 := 2 })) (fun t => t.s3 == 0) = true := by
  decide +kernel

/-- R160, example. -/
theorem test_pbClr : gives (step (give 0x90000000#32 (holding [0x84#8, 0x00#8, 0x04#8, 0x00#8])))
    (fun t => t.pwp == 0 && memoryRead t.pbuf 0 == 0x84#8) = true := by decide +kernel

/-- Section 2.5: the eighth push. -/
theorem test_pbPush : gives (step (give 0xA0000099#32 (holding [1#8, 2#8, 3#8, 4#8, 5#8, 6#8, 7#8])))
    (fun t => t.pwp == 8 && t.stat == 0#11 && memoryRead t.pbuf 7 == 0x99#8) = true := by decide +kernel

/-- Section 2.5: the ninth push. -/
theorem test_pbPush_full : gives (step (give 0xA0000099#32 (holding [1#8, 2#8, 3#8, 4#8, 5#8, 6#8, 7#8, 8#8])))
    (fun t => t.pwp == 8 && t.stat == 0x400#11 && memoryRead t.pbuf 7 == 8#8) = true := by decide +kernel

/-- V76: the Length counts the stuffing byte. -/
theorem test_V76_asm_length : gives (step (give 0xB0000103#32 (holding [0xFF#8, 0xFF#8, 0xFD#8, 0x00#8])))
    (fun t => t.alen == 0x0008#16 && t.ph == .aH0) = true := by decide +kernel

/-- The third event of HUNT in V58. -/
theorem test_hunt_event : gives (step { small with ph := .hRx, s4 := 3, rx := [0x00#8, 0x01#8] })
    (fun t => t.s4 == 0 && t.stat == 0x200#11 && t.ph == .idle && t.rx == [0x01#8]) = true := by decide +kernel

theorem test_hunt_accepted : gives (step (give 0xC0000000#32 { small with s4 := 2 }))
    (fun t => t.ph == .hRx && t.s4 == 2) = true := by decide +kernel

/-- R8: PARSE starts from the header's CRC. -/
theorem test_parse_accepted : gives (step (give 0xD0010004#32 { small with rid := 0x77#8, s3 := 2 }))
    (fun t => t.ph == .pId && t.crc == 0x0E28#16 && t.rid == 0x00#8 && t.s3 == 0) = true := by decide +kernel

/-- V94 at its fifth pull: the capacity differs. -/
theorem test_V94_parse_capacity : gives (step { small with
      ph := .pErr, rlen := 0x0008#16, rinst := 0x55#8, crc := 0x4F7D#16, opCe := true, opCap := 2, rx := [0x00#8] })
    (fun t => t.stat == 0x082#11 && t.rem == 4 && t.crc == 0xFCA1#16 && t.ph == .idle) = true := by decide +kernel

/-- S2: the CRC after `01 08 00` is 0x40CF, after the status marker 0x4F7D. -/
theorem test_tag_returnStatus_received : gives (step { small with ph := .pInst, crc := 0x40CF#16, rx := [0x55#8] })
    (fun t => t.rinst == 0x55#8 && t.crc == 0x4F7D#16 && t.ph == .pErr) = true := by decide +kernel

/-- S1: the CRC before the tag READ is sent is 0x62CF, after it 0xCE40. -/
theorem test_tag_read_sent : gives (step { small with ph := .aInst, crc := 0x62CF#16, opInst := 0x02#8 })
    (fun t => txBytes t.trace == [0x02#8] && t.crc == 0xCE40#16 && t.ph == .aC0) = true := by decide +kernel

/-- R210, R211: each tag as the first instruction after reset is received into `rinst`. -/
theorem test_tags_placed :
    [0x01, 0x02, 0x03, 0x04, 0x05, 0x06, 0x08, 0x10, 0x20, 0x55, 0x82, 0x83, 0x8A, 0x92, 0x93, 0x9A].all
      (fun b => gives (step (State.reset.withFetchWord 8 b)) fun t => t.rinst.toNat == b && t.ph == .pErr) = true := by
  decide +kernel

/-- P7: a reserved word changes STAT alone. -/
theorem test_P7_refusal : gives (step (give 0x00000000#32 { small with crc := 0x151D#16, stat := 0x101#11 }))
    (fun t => decide (t = { small with crc := 0x151D#16, stat := 0x400#11 })) = true := by decide +kernel

/-! ## Witnesses: for each statement with hypotheses, a concrete state and operands that meet them -/

theorem witness_EncodeOfDecodeIsIdentity :
    decode (.command 0xD001FFFF#32) = .instr (.parse true 0xFFFF#16) ∧ decode (.tag 0x9A#8) = .instr .fastBulkRead := by
  decide

theorem witness_DecodeFollowsOpcodeMap :
    (⟨"PARSE", 0xD0000000#32, 0xFFFE0000#32⟩ : Row) ∈ commandRows ∧ 0xD0010004#32 &&& 0xFFFE0000#32 = 0xD0000000#32 ∧
    decodeCommand 0xD0010004#32 = .instr (.parse true 0x0004#16) ∧ opField 0xE0000000#32 = 0xE#4 := by decide

theorem witness_DecodeRejectsReservedWords :
    opField 0x0FFFFFFF#32 = 0x0#4 ∧ formatOf (opField 0xB0010102#32).toNat = some .A ∧
    0xB0010102#32 &&& 0x0FFFFFFF#32 &&& ~~~ Format.A.operandMask ≠ 0#32 := by decide

theorem witness_WireTagBytesDecode : ∀ p ∈ wireTagTable, p.2 ≠ 0x07#8 := by decide

theorem witness_CrcStepLaws : loByte 0x1234#16 = loByte 0x2234#16 ∧
    hiByte 0x1234#16 ^^^ 0x56#8 = hiByte 0x2234#16 ^^^ 0x66#8 := by decide

theorem witness_CrcSeesOneChangedByte : (0xA6#8 ≠ 0xA7#8) ∧
    fold 0x0E28#16 ([0x01#8] ++ 0xA6#8 :: [0x00#8]) ≠ fold 0x0E28#16 ([0x01#8] ++ 0xA7#8 :: [0x00#8]) := by decide +kernel

theorem witness_SentryTransitionTables : (2 : Nat) < 3 ∧ headerByte 2 ≠ 0xFF#8 ∧ headerByte 0 = 0xFF#8 := by decide

theorem witness_StuffingSentryIsExact : (feed 3 (feedAll 3 0 [0xFF#8, 0xFF#8, 0xFF#8]) 0xFD#8).2 = true := by decide

theorem witness_HeaderSentryMissesOneCase :
    (feed 4 (feedAll 4 0 [0xFF#8, 0xFF#8, 0xFD#8]) 0x00#8).2 = true ∧ feedAll 4 0 [0xFF#8, 0xFF#8, 0xFD#8] = 3 := by
  decide

theorem witness_DestuffUndoesStuff : [0xFF#8, 0xFF#8, 0xFD#8] <:+: [0x01#8, 0xFF#8, 0xFF#8, 0xFF#8, 0xFD#8] :=
  ⟨[0x01#8, 0xFF#8], [], rfl⟩

theorem witness_CrcRegisterCommands : small.ph = .idle ∧
    opField 0x18000000#32 = 0x1#4 ∧ (0x18000000#32).extractLsb' 0 28 ≠ 0#28 ∧
    opField 0x20010000#32 = 0x2#4 ∧ (0x20010000#32).extractLsb' 16 12 ≠ 0#12 ∧
    opField 0x30000100#32 = 0x3#4 ∧ (0x30000100#32).extractLsb' 8 20 ≠ 0#20 := by decide

theorem witness_CrcFoldCommand : small.ph = .idle ∧ small.pwp = 0x0000#16 ∧
    (holding [1#8, 2#8, 3#8, 4#8, 5#8, 6#8, 7#8, 8#8]).pwp.toNat ≤ 8 ∧ (holding [1#8]).pbufSize.val = 8 := by decide

theorem witness_SentryCommands : small.ph = .idle ∧
    opField 0x50000001#32 = 0x5#4 ∧ (0x50000001#32).extractLsb' 0 28 ≠ 0#28 ∧ opField 0x78000000#32 = 0x7#4 ∧
    opField 0x60000100#32 = 0x6#4 ∧ (0x60000100#32).extractLsb' 8 20 ≠ 0#20 ∧ opField 0x88000000#32 = 0x8#4 := by decide

theorem witness_PbClrCommand : (holding [1#8]).ph = .idle ∧
    opField 0x90000001#32 = 0x9#4 ∧ (0x90000001#32).extractLsb' 0 28 ≠ 0#28 := by decide

/-- Empty, one place left, full. -/
theorem witness_PbPushCommand :
    small.ph = .idle ∧ small.pwp.toNat < small.pbufSize.val ∧ memoryWf small.pbuf = true ∧ 4 ≤ small.pbufSize.val ∧
    (holding [1#8, 2#8, 3#8, 4#8, 5#8, 6#8, 7#8]).pwp.toNat < 8 ∧
    memoryWf (holding [1#8, 2#8, 0#8, 4#8, 5#8, 6#8, 7#8]).pbuf = true ∧
    (holding [1#8, 2#8, 3#8, 4#8, 5#8, 6#8, 7#8, 8#8]).pwp.toNat = (holding []).pbufSize.val ∧
    opField 0xA0000100#32 = 0xA#4 ∧ (0xA0000100#32).extractLsb' 8 20 ≠ 0#20 := by decide

theorem witness_MultiEventCommandsStart :
    (holding [0xFF#8]).ph = .idle ∧ (holding [0xFF#8]).pwp.toNat ≤ (holding [0xFF#8]).pbufSize.val := by decide

theorem witness_WireTagsAtInstructionByte : ((.reboot, 0x08#8) : Instr × Byte) ∈ wireTagTable ∧
    ({ small with ph := .pInst } : State).ph = .pInst ∧ ({ small with ph := .aInst } : State).ph = .aInst := by decide

theorem witness_WireTagsElsewhere : ((.ping, 0x01#8) : Instr × Byte) ∈ wireTagTable ∧ small.ph = .idle ∧
    ({ small with ph := .pErr } : State).ph ≠ .idle ∧ ({ small with ph := .pErr } : State).ph ≠ .pInst ∧
    ({ small with ph := .pErr } : State).ph ≠ .aInst := by decide

theorem witness_AcceptanceClearsStat : ({ small with stat := 0x101#11 } : State).ph = .idle := by decide

/-- A match; a full buffer; a tag at idle. -/
theorem witness_AcceptedCommandsReportNoKind :
    exec (.s3Feed 0xFD#8) { small with s3 := 2 } = .next { small with stat := 0x200#11 } ∧
    exec (.pbPush 0x01#8) { small with pbufSize := 0 } = .next { small with pbufSize := 0, stat := 0x400#11 } ∧
    exec .ping small = .next { small with stat := 0x400#11 } := ⟨rfl, rfl, rfl⟩

theorem witness_BusyEngineHoldsCommands :
    ({ small with ph := .hRx, cmds := [0x10000000#32] } : State).ph ≠ .idle ∧ isCommand .crcClr = true ∧
    step { small with ph := .hRx, cmds := [0x10000000#32] } = .next { small with ph := .hRx, cmds := [0x10000000#32] } :=
  ⟨by decide, rfl, rfl⟩

theorem witness_StepRunsAcceptedCommand :
    (give 0x10000000#32 small).turn = .go ∧ (give 0x10000000#32 small).ph = .idle ∧
    (give 0x10000000#32 small).cmds = [0x10000000#32] ∧ decodeCommand 0x10000000#32 = .instr .crcClr := by decide

/-- A PARSE at its Instruction byte, the tag READ next. -/
def parseAtTag : State := { small with ph := .pInst, rx := [0x02#8, 0x84#8], turns := [.go] }

/-- An ASM at its Instruction byte, the tag READ to be sent. -/
def asmAtTag : State := { holding [0x84#8] with ph := .aInst, opInst := 0x02#8 }

theorem witness_StepHandlesInstructionByte :
    parseAtTag.turn = .go ∧ parseAtTag.ph = .pInst ∧ parseAtTag.rx = 0x02#8 :: [0x84#8] ∧
    asmAtTag.turn = .go ∧ asmAtTag.ph = .aInst ∧ decodeTag 0x02#8 = .instr .read ∧ asmAtTag.opInst = 0x02#8 := by decide

theorem witness_PlacedWordRunsNext : decodeTableWord 32 0xA0000084 = some (.pbPush 0x84#8) ∧
    decodeTableWord 8 0x55 = some .returnStatus := by decide

theorem witness_ReservedWordIsRefused :
    (give 0xFFFFFFFF#32 small).turn = .go ∧ (give 0xFFFFFFFF#32 small).ph = .idle ∧
    (give 0xFFFFFFFF#32 small).cmds = [0xFFFFFFFF#32] ∧ ∀ r ∈ commandRows, 0xFFFFFFFF#32 &&& r.mask ≠ r.bits := by decide

/-- Four bytes in the buffer, one of them the blank byte. -/
def loaded : State := holding [0x84#8, 0x00#8, 0x04#8, 0x00#8]

/-- An idle state that satisfies the invariant whatever the host and the environment are about to do. -/
theorem inv_loaded (st : BitVec 11) (cs : List Word) (r : List Byte) (us : List Turn)
    (hk : (statKind st).toNat ≤ 0x82) (ha : statAlert st = true → isDeviceKind (statKind st) = true)
    (he : statCmderr st = true → st = 0x400#11) :
    Inv { loaded with stat := st, cmds := cs, rx := r, turns := us } where
  pwp_le := (by decide : loaded.pwp.toNat ≤ loaded.pbufSize.val)
  pbuf_wf := (by decide : memoryWf loaded.pbuf = true)
  pbuf_in := by
    intro k v h
    have hb : loaded.pbuf = [(0, 0x84#8), (2, 0x04#8)] := by decide +kernel
    have hs : loaded.pbufSize.val = 8 := rfl
    change (k, v) ∈ loaded.pbuf at h
    change k < loaded.pbufSize.val
    rw [hb] at h
    simp only [List.mem_cons, Prod.mk.injEq, List.not_mem_nil, or_false] at h
    omega
  kind_made := hk
  alert_device := ha
  cmderr_alone := he
  busy_stat := fun h => absurd rfl h
  skip_raw := fun h => Bool.noConfusion h
  raw_left := fun h => Phase.noConfusion h
  param_left := fun h => Phase.noConfusion h
  stuff_idx := fun h => Phase.noConfusion h
  crc_idx := fun h => h.elim (fun h => Phase.noConfusion h) (fun h => Phase.noConfusion h)
  out_held := fun h => Phase.noConfusion h

/-- An ASM at its last parameter byte satisfies the invariant. -/
theorem inv_sending : Inv { loaded with ph := .aPar, idx := 3 } :=
  let h := inv_loaded 0#11 [] [] [] (by decide) (by decide) (by decide)
  { pwp_le := h.pwp_le, pbuf_wf := h.pbuf_wf, pbuf_in := h.pbuf_in, kind_made := h.kind_made
    alert_device := h.alert_device, cmderr_alone := h.cmderr_alone
    busy_stat := fun _ => rfl
    skip_raw := fun h => Bool.noConfusion h
    raw_left := fun h => Phase.noConfusion h
    param_left := fun _ => by decide
    stuff_idx := fun h => Phase.noConfusion h
    crc_idx := fun h => h.elim (fun h => Phase.noConfusion h) (fun h => Phase.noConfusion h)
    out_held := fun h => Phase.noConfusion h }

/-- STAT at the bounds of the invariant (BAD_LENGTH, device kind 0x7F with alert, a refusal, a match), and an ASM at
its last parameter byte. -/
theorem witness_StepKeepsInv : Inv { loaded with stat := 0x082#11, cmds := [0xB0000102#32] } ∧
    Inv { loaded with stat := 0x17F#11 } ∧ Inv { loaded with stat := 0x400#11 } ∧ Inv { loaded with stat := 0x200#11 } ∧
    Inv { loaded with ph := .aPar, idx := 3 } ∧ step { loaded with ph := .aPar, idx := 3 } =
      .next { loaded with ph := .aC0, idx := 4, trace := [.pushTx 0x00#8] } ∧
    step { loaded with stat := 0x082#11, cmds := [0xB0000102#32] } =
      .next { loaded with alen := 0x0007#16, opId := 0x01#8, opInst := 0x02#8, ph := .aH0 } :=
  ⟨inv_loaded _ _ [] [] (by decide) (by decide) (by decide), inv_loaded _ [] [] [] (by decide) (by decide) (by decide),
    inv_loaded _ [] [] [] (by decide) (by decide) (by decide), inv_loaded _ [] [] [] (by decide) (by decide) (by decide),
    inv_sending, rfl, rfl⟩

theorem witness_InvNeverStops : Inv { loaded with cmds := [0x40000000#32] } :=
  inv_loaded 0#11 _ [] [] (by decide) (by decide) (by decide)

/-- A refused reserved word; a push on a full buffer; a state that keeps a refusal's STAT. -/
theorem witness_CmderrMarksRefusalsOnly :
    Inv { loaded with cmds := [0x00000000#32] } ∧
    step { loaded with cmds := [0x00000000#32] } = .next { loaded with stat := 0x400#11 } ∧
    Inv { loaded with stat := 0x400#11 } ∧
    step { loaded with stat := 0x400#11 } = .next { loaded with stat := 0x400#11 } ∧
    statCmderr 0x400#11 = true :=
  ⟨inv_loaded 0#11 _ [] [] (by decide) (by decide) (by decide), rfl,
    inv_loaded _ [] [] [] (by decide) (by decide) (by decide), rfl, by decide⟩

/-- The two states differ at index 5, above `pwp`. -/
theorem witness_UnwrittenBytesAreUnobservable :
    Inv { loaded with cmds := [0x40000000#32] } ∧
    AgreeBelowPwp { loaded with cmds := [0x40000000#32] }
      { loaded with cmds := [0x40000000#32], pbuf := memoryWrite loaded.pbuf 5 0x99#8 } ∧
    step { loaded with cmds := [0x40000000#32] } = .next { loaded with crc := 0xC83F#16 } :=
  ⟨inv_loaded 0#11 _ [] [] (by decide) (by decide) (by decide),
    ⟨by decide, by decide +kernel, rfl, by decide +kernel⟩, by rfl⟩

theorem witness_ResetTurnResetsTheBlock :
    ({ small with turns := [.reset], ph := .pRaw, crc := 0x1234#16 } : State).turn = .reset := by decide

theorem witness_WaitingChangesNothing :
    ({ small with turns := [.wait, .go] } : State).turn = .wait ∧
    ({ small with ph := .pRaw } : State).turns = [] ∧ ({ small with ph := .pRaw } : State).rest = .go ∧
    isPullPhase .pRaw = true ∧ ({ small with ph := .pRaw } : State).rx = [] := by decide

/-- One pull, one push on TX, one push on PO. -/
theorem witness_OneIrrevocableEventPerStep :
    step parseAtTag = .next (after parseAtTag) ∧ (after parseAtTag).trace = [.pull 0x02#8] ∧
    step asmAtTag = .next (after asmAtTag) ∧ (after asmAtTag).trace = [.pushTx 0x02#8] ∧
    step { small with ph := .pOut, held := 0xA6#8 } = .next (after { small with ph := .pOut, held := 0xA6#8 }) ∧
    (after { small with ph := .pOut, held := 0xA6#8 }).trace = [.pushPo 0xA6#8] :=
  ⟨rfl, rfl, rfl, rfl, rfl, rfl⟩

theorem witness_PullsConsumeRxInOrder :
    step parseAtTag = .next (after parseAtTag) ∧ (after parseAtTag).rx = [0x84#8] := ⟨rfl, rfl⟩

theorem witness_PortsBelongToOperations :
    step asmAtTag = .next (after asmAtTag) ∧ txBytes (after asmAtTag).trace ≠ txBytes asmAtTag.trace ∧
    step { small with ph := .pOut, held := 0xA6#8 } = .next (after { small with ph := .pOut, held := 0xA6#8 }) ∧
    poBytes (after { small with ph := .pOut, held := 0xA6#8 }).trace ≠ poBytes small.trace ∧
    step parseAtTag = .next (after parseAtTag) ∧ (after parseAtTag).rx ≠ parseAtTag.rx :=
  ⟨rfl, by decide +kernel, rfl, by decide +kernel, rfl, by decide +kernel⟩

/-- S4_FEED, HUNT and reset change the count. -/
theorem witness_HeaderCountKeptByOthers :
    step (give 0x800000FF#32 small) = .next { small with s4 := 1 } ∧
    step { small with ph := .hRx, rx := [0xFF#8] } =
      .next { small with ph := .hRx, s4 := 1, trace := [.pull 0xFF#8] } ∧
    step { small with s4 := 3, turns := [.reset] } = .next small := ⟨rfl, rfl, rfl⟩

theorem witness_ParserRegistersLast :
    step (give 0x10000000#32 { small with rid := 0x01#8 }) = .next { small with rid := 0x01#8 } ∧
    (give 0x10000000#32 small).turn ≠ .reset ∧ isParsePhase (give 0x10000000#32 small).ph = false ∧
    decodeCommand 0x10000000#32 = .instr .crcClr := ⟨rfl, by decide, by decide, by decide⟩

/-- A push that writes a byte and one that only moves `pwp`. -/
theorem witness_BufferWrittenOnlyByPush :
    step (give 0xA0000084#32 small) = .next { small with pwp := 1, pbuf := [(0, 0x84#8)] } ∧
    memoryRead [(0, 0x84#8)] 0 ≠ memoryRead small.pbuf 0 ∧
    step (give 0xA0000000#32 small) = .next { small with pwp := 1 } ∧
    (give 0xA0000000#32 small).turn ≠ .reset ∧ memoryWf small.pbuf = true := ⟨rfl, by decide, rfl, by decide, by decide⟩

/-- R36: `ph` is among the registers that the host reads at idle. -/
theorem test_host_reads_phase : (hostView small).map HostView.ph = some .idle ∧
    hostView { small with ph := .aC1 } = none := by decide

theorem witness_HostReadsAtIdleOnly : small.ph = .idle ∧ ({ small with ph := .aC1 } : State).ph ≠ .idle := by decide

/-- No parameter, and a full buffer. -/
theorem witness_AsmSendsTheFrame :
    Unhindered small ∧ small.ph = .idle ∧ params small = some [] ∧
    Unhindered (holding [0xFF#8, 0xFF#8, 0xFD#8, 0x00#8, 0xFF#8, 0xFF#8, 0xFD#8, 0x01#8]) ∧
    params (holding [0xFF#8, 0xFF#8, 0xFD#8, 0x00#8, 0xFF#8, 0xFF#8, 0xFD#8, 0x01#8]) =
      some [0xFF#8, 0xFF#8, 0xFD#8, 0x00#8, 0xFF#8, 0xFF#8, 0xFD#8, 0x01#8] :=
  ⟨⟨rfl, rfl⟩, rfl, by decide +kernel, ⟨rfl, rfl⟩, by decide +kernel⟩

/-- V57's bytes; and V61's, after which HUNT waits. -/
theorem witness_HuntPullsThroughTheHeader :
    Unhindered { small with rx := [0x12#8, 0xFF#8, 0xFF#8, 0xFD#8, 0x00#8, 0x01#8] } ∧ small.ph = .idle ∧
    sentryQuiet 4 small.s4 [0x12#8, 0xFF#8, 0xFF#8, 0xFD#8] = true ∧
    (feed 4 (feedAll 4 small.s4 [0x12#8, 0xFF#8, 0xFF#8, 0xFD#8]) 0x00#8).2 = true ∧
    Unhindered { small with rx := [0x12#8, 0x34#8] } ∧ sentryQuiet 4 small.s4 [0x12#8, 0x34#8] = true :=
  ⟨⟨rfl, rfl⟩, rfl, by decide, by decide, ⟨rfl, rfl⟩, by decide⟩

/-- A READ frame (V100); a Length of 3 (V111); a Length of 4 against another capacity. -/
theorem witness_ParseRejectsTheHead :
    Unhindered { small with rx := headBytes 0x01#8 0x0007#16 0x02#8 0x84#8 ++ [0x00#8] } ∧ small.ph = .idle ∧
    (0x02#8 ≠ 0x55#8) ∧
    Unhindered { small with rx := headBytes 0x01#8 0x0003#16 0x55#8 0x00#8 ++ [] } ∧ (0x0003#16).toNat < 4 ∧
    Unhindered { small with rx := headBytes 0x01#8 0x0004#16 0x55#8 0x00#8 ++ [] } ∧ 4 ≤ (0x0004#16).toNat ∧
    (0x0001#16).toNat ≠ (0x0004#16).toNat - 4 :=
  ⟨⟨rfl, rfl⟩, rfl, by decide, ⟨rfl, rfl⟩, by decide, ⟨rfl, rfl⟩, by decide, by decide⟩

/-- V105, with no parameters and a capacity of 0; V112, whose raw bytes end on a match. -/
theorem witness_ParseReadsTheFrame :
    Unhindered { small with rx := headBytes 0x01#8 0x0004#16 0x55#8 0x00#8 ++ [] ++ [0xA1#8, 0x0C#8] ++ [] } ∧
    (0x0004#16).toNat = ([] : List Byte).length + 4 ∧ (0x0000#16).toNat = ([] : List Byte).length ∧ small.ph = .idle ∧
    Unhindered { small with
      rx := headBytes 0x01#8 0x0007#16 0x55#8 0x00#8 ++ [0xFF#8, 0xFF#8, 0xFD#8] ++ [0xC7#8, 0x49#8] ++ [0xAA#8] } ∧
    (0x0007#16).toNat = [0xFF#8, 0xFF#8, 0xFD#8].length + 4 :=
  ⟨⟨rfl, rfl⟩, by decide, by decide, rfl, ⟨rfl, rfl⟩, by decide⟩

/-- P3's buffer, and one with the alert bit alone and no parameter; the frame P3 sends, as a receiver finds it. -/
theorem witness_StatusFrameRoundTrip :
    Unhindered (holding [0x00#8, 0xFF#8, 0xFF#8, 0xFD#8, 0x00#8, 0x12#8]) ∧
    (holding [0x00#8, 0xFF#8, 0xFF#8, 0xFD#8, 0x00#8, 0x12#8]).ph = .idle ∧
    params (holding [0x00#8, 0xFF#8, 0xFF#8, 0xFD#8, 0x00#8, 0x12#8]) =
      some (0x00#8 :: [0xFF#8, 0xFF#8, 0xFD#8, 0x00#8, 0x12#8]) ∧
    params (holding [0x80#8]) = some (0x80#8 :: []) ∧
    instrFrame 0x01#8 0x55#8 [0x00#8, 0xFF#8, 0xFF#8, 0xFD#8, 0x00#8, 0x12#8] =
      [0xFF#8, 0xFF#8, 0xFD#8, 0x00#8, 0x01#8, 0x0A#8, 0x00#8, 0x55#8, 0x00#8, 0xFF#8, 0xFF#8, 0xFD#8, 0xFD#8, 0x00#8,
       0x12#8, 0x18#8, 0x7B#8] :=
  ⟨⟨rfl, rfl⟩, rfl, by decide +kernel, by decide +kernel, by decide +kernel⟩

/-- A READ frame's Instruction byte; the status marker with a Length of 4 and of 5. -/
theorem witness_OnlyTheStatusMarkerGoesOn :
    Unhindered { small with ph := .pInst, rx := [0x02#8, 0x84#8] } ∧ small.stat = 0#11 ∧
    Unhindered { small with ph := .pInst, rlen := 0x0004#16, rx := [0x55#8, 0x00#8] } ∧ 4 ≤ (0x0004#16).toNat ∧
    Unhindered { small with ph := .pInst, rlen := 0x0005#16, rx := [0x55#8, 0x00#8] } ∧ small.opCe = false :=
  ⟨⟨rfl, rfl⟩, rfl, ⟨rfl, rfl⟩, by decide, ⟨rfl, rfl⟩, rfl⟩

/-- As many bytes as the buffer holds, and fewer. -/
theorem witness_LoadpFillsTheBuffer : small.ph = .idle ∧ memoryWf small.pbuf = true ∧
    [1#8, 2#8, 3#8, 4#8, 5#8, 6#8, 7#8, 8#8].length ≤ small.pbufSize.val ∧
    [1#8].length ≤ loaded.pbufSize.val ∧ [1#8].length ≤ 2 ∧ memoryRead loaded.pbuf 2 = 0x04#8 := by decide +kernel

theorem witness_Crc16FoldsFromZero : ({ small with crc := 0x1234#16 } : State).ph = .idle := by decide

end Sys2Proof.Tests
end

section
/-! The values after reset (10_state R37). -/

namespace Sys2Proof.Machine

/-- `busy` is low exactly at idle (R36, R250). -/
theorem State.busy_eq_false_iff (s : State) : s.busy = false ↔ s.ph = .idle := by
  simp [State.busy]

theorem State.reset_ph : State.reset.ph = .idle := rfl

/-- Settles O36: the registers and the phase are the fields of `State.reset` as it is defined; `busy` is no field, and is
low because the phase is idle. -/
theorem resetValues : Obligations.ResetValues := by
  unfold Obligations.ResetValues
  have not_busy : State.reset.busy = false := (State.busy_eq_false_iff _).mpr State.reset_ph
  exact ⟨rfl, rfl, rfl, rfl, rfl, rfl, rfl, rfl, rfl, rfl, rfl, rfl, rfl, rfl, rfl, State.reset_ph, not_busy⟩

end Sys2Proof.Machine
end

section
/-! Command words (30_encoding): decoding inverts the encoding of a command, and the decoder follows the rows of
R72. -/

namespace Sys2Proof

/-! ## The fields of an encoded command -/

theorem fields_of_encodeN {op : BitVec 4} {w : Word} (h : encodeN op = .command w) :
    opField w = op ∧ clearN w = true := by
  cases h
  exact fieldsN op

theorem fields_of_encodeB {op : BitVec 4} {b : Byte} {w : Word} (h : encodeB op b = .command w) :
    opField w = op ∧ bField w = b ∧ clearB w = true := by
  cases h
  exact fieldsB op b

theorem fields_of_encodeH {op : BitVec 4} {v : Half} {w : Word} (h : encodeH op v = .command w) :
    opField w = op ∧ vField w = v ∧ clearH w = true := by
  cases h
  exact fieldsH op v

theorem fields_of_encodeA {op : BitVec 4} {id inst : Byte} {w : Word} (h : encodeA op id inst = .command w) :
    opField w = op ∧ idField w = id ∧ instField w = inst ∧ clearH w = true := by
  cases h
  exact fieldsA op id inst

theorem fields_of_encodeP {op : BitVec 4} {ce : Bool} {cap : Half} {w : Word} (h : encodeP op ce cap = .command w) :
    opField w = op ∧ ceField w = ce ∧ capField w = cap ∧ clearP w = true := by
  cases h
  exact fieldsP op ce cap

@[simp] theorem whenClear_true (i : Instr) : whenClear true i = .instr i := rfl

/-- Decoding inverts the encoding of a command, format by format (R71, R73). -/
theorem decodeCommand_of_encode {i : Instr} {w : Word} (h : encode i = .command w) : decodeCommand w = .instr i := by
  cases i with
  | crcClr | crcFold | s3Clr | s4Clr | pbClr | hunt =>
    obtain ⟨hop, hclear⟩ := fields_of_encodeN h
    simp [decodeCommand, hop, hclear]
  | crcAdv b | s3Feed b | s4Feed b | pbPush b =>
    obtain ⟨hop, hb, hclear⟩ := fields_of_encodeB h
    simp [decodeCommand, hop, hb, hclear]
  | crcLd v =>
    obtain ⟨hop, hv, hclear⟩ := fields_of_encodeH h
    simp [decodeCommand, hop, hv, hclear]
  | asm id inst =>
    obtain ⟨hop, hid, hinst, hclear⟩ := fields_of_encodeA h
    simp [decodeCommand, hop, hid, hinst, hclear]
  | parse ce cap =>
    obtain ⟨hop, hce, hcap, hclear⟩ := fields_of_encodeP h
    simp [decodeCommand, hop, hce, hcap, hclear]
  | _ => cases h

/-- Settles O5: each of the fourteen words is the encoding of its command, and decoding inverts encoding. -/
theorem workedEncodingsDecode : Obligations.WorkedEncodingsDecode := by
  unfold Obligations.WorkedEncodingsDecode
  intro p hp
  have encodes : encode p.2 = .command p.1 := by
    revert p
    decide
  exact ⟨decodeCommand_of_encode encodes, encodes⟩

/-! ## Masks and fields -/

theorem getLsbD_opField_append (w : Word) {j : Nat} (hj : j < 32) :
    (opField w ++ 0#28).getLsbD j = (w.getLsbD j && decide (28 ≤ j)) := by
  rw [BitVec.getLsbD_append, opField, BitVec.getLsbD_extractLsb']
  grind

theorem getLsbD_and_highMask (w : Word) (k : Nat) {j : Nat} (hj : j < 32) :
    (w &&& BitVec.allOnes 32 <<< k).getLsbD j = (w.getLsbD j && decide (k ≤ j)) := by
  rw [← BitVec.shiftLeft_ushiftRight, BitVec.getLsbD_shiftLeft, BitVec.getLsbD_ushiftRight]
  grind

/-- The mask that drops the low `k` bits leaves of a word exactly its opcode when the bits from `k` to 27 are 0. -/
theorem and_highMask_eq_iff {k : Nat} (hk : k ≤ 28) (w : Word) :
    w &&& BitVec.allOnes 32 <<< k = opField w ++ 0#28 ↔ w.extractLsb' k (28 - k) = 0#(28 - k) := by
  constructor
  · intro masked
    ext j hj
    have bit := getLsbD_and_highMask w k (show k + j < 32 by omega)
    rw [masked, getLsbD_opField_append w (by omega)] at bit
    simpa [show ¬ 28 ≤ k + j by omega] using bit
  · intro zero
    have bit_zero (j : Nat) (hkj : k ≤ j) (hj : j < 28) : w.getLsbD j = false := by
      have bit : (w.extractLsb' k (28 - k)).getLsbD (j - k) = false := by simp [zero]
      simpa [show j - k < 28 - k by omega, show k + (j - k) = j by omega] using bit
    apply BitVec.eq_of_getLsbD_eq
    intro j hj
    rw [getLsbD_and_highMask w k hj, getLsbD_opField_append w hj]
    grind

/-! ## The rows of the opcode map -/

theorem bits_of_mem_commandRows : ∀ r ∈ commandRows, r.bits = opField r.bits ++ 0#28 := by decide

theorem opField_mask_of_mem_commandRows : ∀ r ∈ commandRows, opField r.mask = BitVec.allOnes 4 := by decide

/-- No two rows share a mnemonic. -/
theorem commandRows_mnemonic_unique :
    ∀ r ∈ commandRows, ∀ r' ∈ commandRows, r.mnemonic = r'.mnemonic → r = r' := by decide

/-- The opcodes that no row has (R72). -/
def ReservedOpcode (op : BitVec 4) : Prop := op = 0x0#4 ∨ op = 0xE#4 ∨ op = 0xF#4

section
variable {r : Row} {w : Word}

theorem Row.spells_iff : r.spells w = true ↔ w &&& r.mask = r.bits := beq_iff_eq

/-- A word that spells a row has the row's opcode. -/
theorem opField_eq_of_spells (hr : r ∈ commandRows) (h : r.spells w = true) : opField w = opField r.bits := by
  rw [← Row.spells_iff.mp h]
  unfold opField
  rw [BitVec.extractLsb'_and]
  change _ = _ &&& opField r.mask
  rw [opField_mask_of_mem_commandRows r hr, BitVec.and_allOnes]

/-- A word with a row's opcode spells the row when its reserved bits are 0. -/
theorem extractLsb'_eq_zero_eq_spells (hr : r ∈ commandRows) (hop : opField w = opField r.bits) {k : Nat} (hk : k ≤ 28)
    (hmask : r.mask = BitVec.allOnes 32 <<< k) : (w.extractLsb' k (28 - k) == 0#(28 - k)) = r.spells w := by
  rw [Bool.eq_iff_iff, beq_iff_eq, Row.spells_iff, hmask, bits_of_mem_commandRows r hr, ← hop]
  exact (and_highMask_eq_iff hk w).symm

theorem clearN_eq_spells (hr : r ∈ commandRows) (hop : opField w = opField r.bits) (hmask : r.mask = 0xFFFFFFFF#32) :
    clearN w = r.spells w :=
  extractLsb'_eq_zero_eq_spells (k := 0) hr hop (by decide) hmask

theorem clearB_eq_spells (hr : r ∈ commandRows) (hop : opField w = opField r.bits) (hmask : r.mask = 0xFFFFFF00#32) :
    clearB w = r.spells w :=
  extractLsb'_eq_zero_eq_spells (k := 8) hr hop (by decide) hmask

theorem clearH_eq_spells (hr : r ∈ commandRows) (hop : opField w = opField r.bits) (hmask : r.mask = 0xFFFF0000#32) :
    clearH w = r.spells w :=
  extractLsb'_eq_zero_eq_spells (k := 16) hr hop (by decide) hmask

theorem clearP_eq_spells (hr : r ∈ commandRows) (hop : opField w = opField r.bits) (hmask : r.mask = 0xFFFE0000#32) :
    clearP w = r.spells w :=
  extractLsb'_eq_zero_eq_spells (k := 17) hr hop (by decide) hmask

end

/-- With a row's opcode the decoder accepts a command of that row when the word spells the row. -/
theorem decodeCommand_of_row {r : Row} {w : Word} (hr : r ∈ commandRows) (hop : opField w = opField r.bits) :
    ∃ i : Instr, i.mnemonic = r.mnemonic ∧ decodeCommand w = whenClear (r.spells w) i := by
  have hN := clearN_eq_spells hr hop
  have hB := clearB_eq_spells hr hop
  have hH := clearH_eq_spells hr hop
  have hP := clearP_eq_spells hr hop
  unfold decodeCommand
  rw [hop]
  fin_cases hr
  · exact ⟨.crcClr, rfl, hN rfl ▸ rfl⟩
  · exact ⟨.crcLd (vField w), rfl, hH rfl ▸ rfl⟩
  · exact ⟨.crcAdv (bField w), rfl, hB rfl ▸ rfl⟩
  · exact ⟨.crcFold, rfl, hN rfl ▸ rfl⟩
  · exact ⟨.s3Clr, rfl, hN rfl ▸ rfl⟩
  · exact ⟨.s3Feed (bField w), rfl, hB rfl ▸ rfl⟩
  · exact ⟨.s4Clr, rfl, hN rfl ▸ rfl⟩
  · exact ⟨.s4Feed (bField w), rfl, hB rfl ▸ rfl⟩
  · exact ⟨.pbClr, rfl, hN rfl ▸ rfl⟩
  · exact ⟨.pbPush (bField w), rfl, hB rfl ▸ rfl⟩
  · exact ⟨.asm (idField w) (instField w), rfl, hH rfl ▸ rfl⟩
  · exact ⟨.hunt, rfl, hN rfl ▸ rfl⟩
  · exact ⟨.parse (ceField w) (capField w), rfl, hP rfl ▸ rfl⟩

theorem decodeCommand_of_reservedOpcode {w : Word} (h : ReservedOpcode (opField w)) :
    decodeCommand w = .rejected .reservedOpcode := by
  rcases h with hop | hop | hop <;> simp [decodeCommand, hop]

/-- Every opcode is a row's or reserved. -/
theorem opcode_cases : ∀ op : BitVec 4, (∃ r ∈ commandRows, op = opField r.bits) ∨ ReservedOpcode op := by
  unfold ReservedOpcode
  decide

/-- A word that spells a row decodes to a command of that row. -/
theorem decodeCommand_of_spells {r : Row} {w : Word} (hr : r ∈ commandRows) (hspells : r.spells w = true) :
    ∃ i : Instr, decodeCommand w = .instr i ∧ i.mnemonic = r.mnemonic := by
  obtain ⟨i, hi, hd⟩ := decodeCommand_of_row hr (opField_eq_of_spells hr hspells)
  exact ⟨i, by rw [hd, hspells, whenClear_true], hi⟩

/-- A word that decodes to a command spells the command's row. -/
theorem spells_row_of_decodeCommand {w : Word} {i : Instr} (h : decodeCommand w = .instr i) :
    ∃ r ∈ commandRows, r.mnemonic = i.mnemonic ∧ r.spells w = true := by
  rcases opcode_cases (opField w) with ⟨r, hr, hop⟩ | hreserved
  · obtain ⟨j, hj, hd⟩ := decodeCommand_of_row hr hop
    obtain ⟨hspells, rfl⟩ := whenClear_eq_instr.mp (hd.symm.trans h)
    exact ⟨r, hr, hj.symm, hspells⟩
  · rw [decodeCommand_of_reservedOpcode hreserved] at h
    cases h

/-- Settles O3: spelling a row and decoding to its command imply each other, since no two rows share a mnemonic. -/
theorem decodeFollowsOpcodeMap : Obligations.DecodeFollowsOpcodeMap := by
  unfold Obligations.DecodeFollowsOpcodeMap
  refine ⟨rfl, fun w => ⟨fun r hr => ?_, fun i hi => ?_, fun hreserved => ?_⟩⟩
  · rw [← Row.spells_iff]
    refine ⟨decodeCommand_of_spells hr, fun ⟨i, hi, hmnemonic⟩ => ?_⟩
    obtain ⟨r', hr', hmnemonic', hspells⟩ := spells_row_of_decodeCommand hi
    obtain rfl := commandRows_mnemonic_unique r' hr' r hr (hmnemonic'.trans hmnemonic)
    exact hspells
  · obtain ⟨r, hr, hmnemonic, -⟩ := spells_row_of_decodeCommand hi
    exact ⟨r, hr, hmnemonic⟩
  · exact ⟨.reservedOpcode, decodeCommand_of_reservedOpcode hreserved⟩

end Sys2Proof
end

section
/-! The CRC engine (40_crc): `Adv` as eight rounds of R102's shift and xor on the accumulator with the byte in its high
half. The laws of R108 follow from those of one round. -/

namespace Sys2Proof.Machine

/-! ## The bytes of a half -/

theorem append_xor_append (x y x' y' : Byte) : (x ++ y : Half) ^^^ (x' ++ y') = (x ^^^ x') ++ (y ^^^ y') :=
  BitVec.xor_append

theorem hiByte_append_loByte (s : Half) : hiByte s ++ loByte s = s := BitVec.extractLsb'_append_extractLsb'

@[simp] theorem hiByte_append (x y : Byte) : hiByte (x ++ y) = x := BitVec.extractLsb'_append_eq_left

@[simp] theorem loByte_append (x y : Byte) : loByte (x ++ y) = y := BitVec.extractLsb'_append_eq_right

/-- Shifting by eight moves the low byte up. -/
theorem shiftLeft_eight (s : Half) : s <<< 8 = loByte s ++ 0x00#8 := BitVec.shiftLeft_eq_concat_of_lt (by decide)

theorem setWidth_shiftLeft_eight (b : Byte) : b.setWidth 16 <<< 8 = b ++ 0x00#8 := by
  rw [shiftLeft_eight, loByte, BitVec.extractLsb'_setWidth_of_le (by decide), BitVec.extractLsb'_eq_self]

/-! ## The rounds of the table's construction -/

/-- The model's round is R102's, whose mask keeps all 16 bits. -/
theorem crcShift_eq_crcRound : crcShift = crcRound := by
  funext c
  have keeps_all (v : Half) : v &&& 0xFFFF#16 = v := BitVec.and_allOnes
  simp only [crcShift, crcRound, keeps_all, BitVec.msb_eq_getLsbD_last]

theorem crcShifts_eq_iterate (n : Nat) : crcShifts n = crcShift^[n] := by
  induction n with
  | zero => rfl
  | succ n ih =>
    funext c
    rw [crcShifts, ih, Function.iterate_succ_apply]

theorem crcShift_of_msb {c : Half} (h : c.msb = true) : crcShift c = c <<< 1 ^^^ 0x8005#16 := if_pos h

theorem crcShift_of_not_msb {c : Half} (h : c.msb = false) : crcShift c = c <<< 1 := by simp [crcShift, h]

/-- A round that shifts out a 1 leaves a 1 in bit 0, the generator's, so only 0 goes to 0. -/
theorem crcShift_eq_zero {c : Half} (h : crcShift c = 0x0000#16) : c = 0x0000#16 := by
  cases hmsb : c.msb with
  | true =>
    have bit_zero : (crcShift c).getLsbD 0 = true := by simp [crcShift_of_msb hmsb]
    simp [h] at bit_zero
  | false =>
    rw [crcShift_of_not_msb hmsb] at h
    rw [BitVec.msb_eq_false_iff_two_mul_lt] at hmsb
    bv_omega

theorem crcShift_injective : Function.Injective crcShift := by
  intro a b h
  have difference : crcShift (a ^^^ b) = 0x0000#16 := by rw [crcShift_xor, h, BitVec.xor_self]
  exact BitVec.xor_eq_zero_iff.mp (crcShift_eq_zero difference)

theorem crcShifts_injective (n : Nat) : Function.Injective (crcShifts n) :=
  crcShifts_eq_iterate n ▸ crcShift_injective.iterate n

/-- Rounds that shift out only zeros are a shift. -/
theorem crcShifts_of_lt {n : Nat} {c : Half} (h : c.toNat * 2 ^ n < 2 ^ 16) : crcShifts n c = c <<< n := by
  induction n generalizing c with
  | zero => simp [crcShifts]
  | succ n ih =>
    have hpos : 0 < 2 ^ n := by positivity
    rw [Nat.pow_succ', ← Nat.mul_assoc] at h
    have hlt : c.toNat * 2 < 2 ^ 16 := lt_of_le_of_lt (Nat.le_mul_of_pos_right _ hpos) h
    have hmsb : c.msb = false := BitVec.msb_eq_false_iff_two_mul_lt.mpr (by omega)
    have hshift : (c <<< 1).toNat = c.toNat * 2 := by
      rw [BitVec.toNat_shiftLeft, Nat.shiftLeft_eq]
      exact Nat.mod_eq_of_lt hlt
    rw [crcShifts, crcShift_of_not_msb hmsb, ih (hshift ▸ h), ← BitVec.shiftLeft_add, Nat.add_comm]

/-- Eight rounds move a half with a zero high byte up by a byte. -/
theorem crcShifts_eight_zero_append (b : Byte) : crcShifts 8 (0x00#8 ++ b) = b ++ 0x00#8 := by
  have htoNat : (0x00#8 ++ b : Half).toNat = b.toNat := BitVec.toNat_append _ _ |>.trans (by simp)
  rw [crcShifts_of_lt (by omega), shiftLeft_eight, loByte_append]

/-! ## The table -/

theorem crcListing_eq_map_crcTable : crcListing = (List.finRange 256).map fun i => crcTable (BitVec.ofFin i) := by
  decide +kernel

theorem crcTable_eq_iterate_crcRound (i : Byte) : crcTable i = crcRound^[8] (i.setWidth 16 <<< 8) := by
  rw [crcTable, crcShifts_eq_iterate, crcShift_eq_crcRound, setWidth_shiftLeft_eight]

/-- Settles O7: the listing is evaluated entry by entry; the construction is the model's, round by round. -/
theorem crcTableIsTheListing : Obligations.CrcTableIsTheListing := by
  unfold Obligations.CrcTableIsTheListing
  refine ⟨by simp [crcListing_eq_map_crcTable], fun i => ?_, crcTable_eq_iterate_crcRound⟩
  rw [crcListing_eq_map_crcTable, List.getElem?_map, List.getElem?_eq_getElem (by simp), List.getElem_finRange]
  rfl

/-- Settles O8: the three equations are the laws of `fold` on lists. -/
theorem foldTakesBytesInOrder : Obligations.FoldTakesBytesInOrder := ⟨fold_nil, fold_cons, fold_append⟩

/-! ## The laws of `Adv` -/

/-- One byte of `Adv` is eight rounds on the accumulator with the byte in its high half (R100, R102). -/
theorem adv_eq_crcShifts (s : Half) (b : Byte) : adv s b = crcShifts 8 (s ^^^ (b ++ 0x00#8)) := by
  have halves : s ^^^ (b ++ 0x00#8) = (0x00#8 ++ loByte s) ^^^ ((hiByte s ^^^ b) ++ 0x00#8) := by
    conv_lhs => rw [← hiByte_append_loByte s]
    rw [append_xor_append, append_xor_append, BitVec.zero_xor, BitVec.xor_zero]
  rw [halves, crcShifts_xor, crcShifts_eight_zero_append, ← shiftLeft_eight]
  rfl

theorem adv_xor (s s' : Half) (b b' : Byte) : adv (s ^^^ s') (b ^^^ b') = adv s b ^^^ adv s' b' := by
  have operands : (s ^^^ s') ^^^ ((b ^^^ b') ++ 0x00#8) = (s ^^^ (b ++ 0x00#8)) ^^^ (s' ^^^ (b' ++ 0x00#8)) := by
    have sum : ((b ^^^ b') ++ 0x00#8 : Half) = (b ++ 0x00#8) ^^^ (b' ++ 0x00#8) := by
      rw [append_xor_append, BitVec.xor_self]
    rw [sum]
    ac_rfl
  simp only [adv_eq_crcShifts, operands, crcShifts_xor]

theorem adv_injective_left (b : Byte) : Function.Injective fun s : Half => adv s b := by
  intro s s' h
  simp only [adv_eq_crcShifts] at h
  exact BitVec.xor_left_inj _ |>.mp (crcShifts_injective 8 h)

theorem adv_bijective_left (b : Byte) : Function.Bijective fun s : Half => adv s b :=
  (adv_injective_left b).bijective_of_finite

theorem adv_zero_left (b : Byte) : adv 0x0000#16 b = crcTable b := by
  simp [adv_eq_crcShifts, crcTable]

/-- `Adv` reads the accumulator's low byte, and the high byte only through its xor with the operand. -/
theorem adv_congr {s s' : Half} {b b' : Byte} (hlo : loByte s = loByte s') (hhi : hiByte s ^^^ b = hiByte s' ^^^ b') :
    adv s b = adv s' b' := by
  simp only [adv, shiftLeft_eight, hlo, hhi]

/-- The accumulator's own high byte cancels it: the low byte is left, moved up. -/
theorem adv_hiByte (s : Half) : adv s (hiByte s) = loByte s ++ 0x00#8 := by
  have table_zero : crcTable 0x00#8 = 0x0000#16 := by decide
  rw [adv, BitVec.xor_self, table_zero, BitVec.xor_zero, shiftLeft_eight]

/-- The CRC appended high byte first leaves 0: each byte cancels the half's high byte. -/
theorem fold_hiByte_loByte (s : Half) : fold s [hiByte s, loByte s] = 0x0000#16 := by
  have second : adv (loByte s ++ 0x00#8) (loByte s) = 0x00#8 ++ 0x00#8 := by
    simpa using adv_hiByte (loByte s ++ 0x00#8)
  rw [fold_cons, adv_hiByte, fold_cons, second, fold_nil]
  rfl

/-- Settles O9: the general laws are the lemmas above, the corner values are evaluated; after the one byte `01` the CRC
appended low byte first does not give 0. -/
theorem crcStepLaws : Obligations.CrcStepLaws := by
  unfold Obligations.CrcStepLaws
  refine ⟨by decide, adv_zero_left, by decide, by decide, fun s s' b b' => adv_congr, by decide,
    fun s => by rw [shiftLeft_eight, hiByte_append], by decide, by decide, by decide, by decide, by decide, by decide,
    adv_bijective_left, adv_xor, fold_hiByte_loByte, ?_⟩
  exact ⟨[0x01#8], by decide⟩

end Sys2Proof.Machine
end

section
/-! The words of a command by its format (30_encoding R71): a word with operands as the opcode's word with the operands
or-ed in, and the words that a set reserved bit makes the decoder refuse. -/

namespace Sys2Proof

theorem append_eq_or_setWidth {n m : Nat} (x : BitVec n) (y : BitVec m) :
    x ++ y = (x ++ 0#m) ||| y.setWidth (n + m) := by
  ext j hj
  rw [BitVec.getElem_or, BitVec.getElem_append, BitVec.getElem_append, BitVec.getElem_setWidth]
  split
  next hlow => simp [BitVec.getLsbD_eq_getElem hlow]
  next hhigh => simp [BitVec.getLsbD_of_ge y j (by omega)]

theorem encodeB_eq (op : BitVec 4) (b : Byte) : encodeB op b = .command ((op ++ 0#20 ++ 0x00#8) ||| b.setWidth 32) :=
  congrArg Code.command (append_eq_or_setWidth (op ++ 0#20) b)

theorem encodeH_eq (op : BitVec 4) (v : Half) :
    encodeH op v = .command ((op ++ 0#12 ++ 0x0000#16) ||| v.setWidth 32) :=
  congrArg Code.command (append_eq_or_setWidth (op ++ 0#12) v)

/-- The bits that a format reserves are 0 (R71), as the decoder tests them. -/
def Format.reservedClear : Format → Word → Bool
  | .N => clearN
  | .B => clearB
  | .H | .A => clearH
  | .P => clearP

/-- The decoder reads a word by the format of its opcode. -/
theorem decodeCommand_of_formatOf {w : Word} {f : Format} (hf : formatOf (opField w).toNat = some f) :
    ∃ i, decodeCommand w = whenClear (f.reservedClear w) i := by
  unfold formatOf at hf
  split at hf <;> cases hf <;> next hop => exact ⟨_, by rw [decodeCommand, hop]; rfl⟩

/-- A word with a command's opcode and a reserved bit set is refused (R77). -/
theorem decodeCommand_eq_rejected {w : Word} {f : Format} (hf : formatOf (opField w).toNat = some f)
    (hset : f.reservedClear w = false) : decodeCommand w = .rejected .reservedBits := by
  obtain ⟨i, hd⟩ := decodeCommand_of_formatOf hf
  exact hd.trans (whenClear_eq_rejected.mpr ⟨hset, rfl⟩)

end Sys2Proof
end

section
/-! The CRC commands (40_crc R103 to R106) at idle. -/

namespace Sys2Proof.Machine

theorem exec_crcClr (s : State) : exec .crcClr s = execCrcClr s := rfl
theorem exec_crcLd (v : Half) (s : State) : exec (.crcLd v) s = execCrcLd v s := rfl
theorem exec_crcAdv (b : Byte) (s : State) : exec (.crcAdv b) s = execCrcAdv b s := rfl
theorem exec_crcFold (s : State) : exec .crcFold s = execCrcFold s := rfl

section
variable {s : State} (hidle : s.ph = .idle)
include hidle

theorem exec_crcClr_of_idle : exec .crcClr s = .next { s with stat := 0#11, crc := 0x0000#16 } := by
  rw [exec_crcClr, execCrcClr, accept_idle hidle]

theorem exec_crcLd_of_idle (v : Half) : exec (.crcLd v) s = .next { s with stat := 0#11, crc := v } := by
  rw [exec_crcLd, execCrcLd, accept_idle hidle]

theorem exec_crcAdv_of_idle (b : Byte) : exec (.crcAdv b) s = .next { s with stat := 0#11, crc := adv s.crc b } := by
  rw [exec_crcAdv, execCrcAdv, accept_idle hidle]

/-- With `pwp <= PBUF_SIZE` (R26) the parameters exist, and CRC_FOLD folds them. -/
theorem exec_crcFold_of_idle (hpwp : s.pwp.toNat ≤ s.pbufSize.val) :
    exec .crcFold s = .next { s with stat := 0#11, crc := fold s.crc (pbufBytes s.pbuf s.pwp.toNat) } := by
  have hparams : params { s with stat := 0#11 } = some (pbufBytes s.pbuf s.pwp.toNat) :=
    params_eq_some.mpr ⟨hpwp, rfl⟩
  rw [exec_crcFold, execCrcFold, accept_idle hidle, hparams]

end

/-- A word with the opcode of CRC_CLR, CRC_LD or CRC_ADV and a reserved bit set is refused. -/
theorem crc_word_rejected (w : Word)
    (h : (opField w = 0x1#4 ∧ w.extractLsb' 0 28 ≠ 0#28) ∨ (opField w = 0x2#4 ∧ w.extractLsb' 16 12 ≠ 0#12) ∨
      (opField w = 0x3#4 ∧ w.extractLsb' 8 20 ≠ 0#20)) : decodeCommand w = .rejected .reservedBits := by
  rcases h with ⟨hop, hset⟩ | ⟨hop, hset⟩ | ⟨hop, hset⟩
  · exact decodeCommand_eq_rejected (f := .N) (by rw [hop]; rfl) (beq_eq_false_iff_ne.mpr hset)
  · exact decodeCommand_eq_rejected (f := .H) (by rw [hop]; rfl) (beq_eq_false_iff_ne.mpr hset)
  · exact decodeCommand_eq_rejected (f := .B) (by rw [hop]; rfl) (beq_eq_false_iff_ne.mpr hset)

/-- Settles O19: the words, the effects and the refusals are the lemmas above; the rules' examples are evaluated. -/
theorem crcRegisterCommands : Obligations.CrcRegisterCommands := by
  unfold Obligations.CrcRegisterCommands
  refine ⟨rfl, encodeH_eq 0x2#4, encodeB_eq 0x3#4, fun s hidle => ?_, crc_word_rejected, by decide, by decide⟩
  exact ⟨exec_crcClr_of_idle hidle, exec_crcLd_of_idle hidle, exec_crcAdv_of_idle hidle⟩

/-- Settles O20: with `pwp = 0` there is no parameter to fold. -/
theorem crcFoldCommand : Obligations.CrcFoldCommand := by
  unfold Obligations.CrcFoldCommand
  refine ⟨rfl, fun s hidle hpwp => ?_, by decide, by decide⟩
  have effect := exec_crcFold_of_idle hidle hpwp
  refine ⟨effect, fun hzero => ?_⟩
  have no_params : pbufBytes s.pbuf s.pwp.toNat = [] := by simp [hzero, pbufBytes]
  rw [effect, no_params, fold_nil]

end Sys2Proof.Machine
end

section
/-! The sentries (41_sentry R122, R123): the rows of their tables, and what the 3-byte sentry's count says of the bytes
fed since it was clear. -/

namespace Sys2Proof.Machine

/-! ## The rows of the tables -/

theorem feed_three_zero (b : Byte) : feed 3 0 b = if b = 0xFF#8 then (1, false) else (0, false) := feed_three 0 b

theorem feed_three_one (b : Byte) : feed 3 1 b = if b = 0xFF#8 then (2, false) else (0, false) := feed_three 1 b

theorem feed_three_two (b : Byte) :
    feed 3 2 b = if b = 0xFF#8 then (2, false) else if b = 0xFD#8 then (0, true) else (0, false) := by
  by_cases hFF : b = 0xFF#8 <;> simp [feed_three, hFF]

theorem feed_four_zero (b : Byte) : feed 4 0 b = if b = 0xFF#8 then (1, false) else (0, false) := feed_four 0 b

theorem feed_four_one (b : Byte) : feed 4 1 b = if b = 0xFF#8 then (2, false) else (0, false) := feed_four 1 b

theorem feed_four_two (b : Byte) :
    feed 4 2 b = if b = 0xFF#8 then (2, false) else if b = 0xFD#8 then (3, false) else (0, false) := by
  by_cases hFF : b = 0xFF#8 <;> simp [feed_four, hFF]

theorem feed_four_three (b : Byte) : feed 4 3 b = if b = 0x00#8 then (0, true) else (0, false) := feed_four 3 b

/-- Below count 3 the stay arm, reached by a byte `FF` that does not advance, is possible at count 2 alone. -/
theorem stay_possible_iff : ∀ c < 3, (headerByte c ≠ 0xFF#8 ∧ headerByte 0 = 0xFF#8) ↔ c = 2 := by decide

/-- Settles O12, row by row. -/
theorem sentryTransitionTables : Obligations.SentryTransitionTables :=
  ⟨feed_three_zero, feed_three_one, feed_three_two, feed_four_zero, feed_four_one, feed_four_two, feed_four_three,
    stay_possible_iff⟩

/-! ## What the count of the 3-byte sentry says -/

theorem feed_three_match_iff (c : Fin 3) (b : Byte) : (feed 3 c b).2 = true ↔ c = 2 ∧ b = 0xFD#8 := by
  match c with
  | 0 => rw [feed_three_zero]; split <;> simp
  | 1 => rw [feed_three_one]; split <;> simp
  | 2 =>
    rw [feed_three_two]
    split
    next hFF => simp [hFF]
    next => split <;> simp_all

theorem feed_three_ne_zero_iff (c : Fin 3) (b : Byte) : (feed 3 c b).1 ≠ 0 ↔ b = 0xFF#8 := by
  match c with
  | 0 => rw [feed_three_zero]; split <;> simp_all
  | 1 => rw [feed_three_one]; split <;> simp_all
  | 2 => rw [feed_three_two]; split_ifs <;> simp_all

theorem feed_three_eq_two_iff (c : Fin 3) (b : Byte) : (feed 3 c b).1 = 2 ↔ c ≠ 0 ∧ b = 0xFF#8 := by
  match c with
  | 0 => rw [feed_three_zero]; split <;> simp
  | 1 => rw [feed_three_one]; split <;> simp_all
  | 2 => rw [feed_three_two]; split_ifs <;> simp_all

theorem feedAll_snoc (n : Nat) (c : Fin n) (p : List Byte) (b : Byte) :
    feedAll n c (p ++ [b]) = (feed n (feedAll n c p) b).1 := feedAll_append n c p [b]

theorem snoc_suffix_snoc_iff {xs ys : List Byte} {a b : Byte} : xs ++ [a] <:+ ys ++ [b] ↔ xs <:+ ys ∧ a = b := by
  simp [List.suffix_concat_iff, and_comm]

/-- From a clear sentry the count is above 0 exactly when the last byte fed is `FF`. -/
theorem feedAll_three_ne_zero_iff (p : List Byte) : feedAll 3 0 p ≠ 0 ↔ [0xFF#8] <:+ p := by
  cases p using List.reverseRecOn with
  | nil => simp
  | append_singleton p b =>
    rw [feedAll_snoc, feed_three_ne_zero_iff, List.singleton_suffix_append_singleton_iff, eq_comm]

/-- From a clear sentry the count is 2 exactly when the last two bytes fed are `FF FF`. -/
theorem feedAll_three_eq_two_iff (p : List Byte) : feedAll 3 0 p = 2 ↔ [0xFF#8, 0xFF#8] <:+ p := by
  cases p using List.reverseRecOn with
  | nil => simp
  | append_singleton p b =>
    calc feedAll 3 0 (p ++ [b]) = 2
        ↔ feedAll 3 0 p ≠ 0 ∧ b = 0xFF#8 := by rw [feedAll_snoc, feed_three_eq_two_iff]
      _ ↔ [0xFF#8] <:+ p ∧ 0xFF#8 = b := by rw [feedAll_three_ne_zero_iff, eq_comm]
      _ ↔ [0xFF#8] ++ [0xFF#8] <:+ p ++ [b] := snoc_suffix_snoc_iff.symm

/-- Settles O13: a match is `FD` at count 2, count 2 is `FF FF` just fed, and a match leaves the
count at 0. -/
theorem stuffingSentryIsExact : Obligations.StuffingSentryIsExact := by
  unfold Obligations.StuffingSentryIsExact
  refine fun p b => ⟨?_, fun hmatch => Fin.ext (feed_match hmatch)⟩
  calc (feed 3 (feedAll 3 0 p) b).2 = true
      ↔ feedAll 3 0 p = 2 ∧ b = 0xFD#8 := feed_three_match_iff _ b
    _ ↔ [0xFF#8, 0xFF#8] <:+ p ∧ 0xFD#8 = b := by rw [feedAll_three_eq_two_iff, eq_comm]
    _ ↔ [0xFF#8, 0xFF#8] ++ [0xFD#8] <:+ p ++ [b] := snoc_suffix_snoc_iff.symm

end Sys2Proof.Machine
end

section
/-! The sentry commands (41_sentry R125 to R128) at idle. -/

namespace Sys2Proof.Machine

theorem exec_s3Clr (s : State) : exec .s3Clr s = execS3Clr s := rfl
theorem exec_s3Feed (b : Byte) (s : State) : exec (.s3Feed b) s = execS3Feed b s := rfl
theorem exec_s4Clr (s : State) : exec .s4Clr s = execS4Clr s := rfl
theorem exec_s4Feed (b : Byte) (s : State) : exec (.s4Feed b) s = execS4Feed b s := rfl

theorem setMatch_zero (m : Bool) : setMatch 0#11 m = if m then 0x200#11 else 0#11 := by
  cases m <;> simp

section
variable {s : State} (hidle : s.ph = .idle)
include hidle

theorem exec_s3Clr_of_idle : exec .s3Clr s = .next { s with stat := 0#11, s3 := 0 } := by
  rw [exec_s3Clr, execS3Clr, accept_idle hidle]

theorem exec_s4Clr_of_idle : exec .s4Clr s = .next { s with stat := 0#11, s4 := 0 } := by
  rw [exec_s4Clr, execS4Clr, accept_idle hidle]

theorem exec_s3Feed_of_idle (b : Byte) : exec (.s3Feed b) s = .next { s with
    stat := if (feed 3 s.s3 b).2 then 0x200#11 else 0#11, s3 := (feed 3 s.s3 b).1 } := by
  rw [exec_s3Feed, execS3Feed, accept_idle hidle, setMatch_zero]

theorem exec_s4Feed_of_idle (b : Byte) : exec (.s4Feed b) s = .next { s with
    stat := if (feed 4 s.s4 b).2 then 0x200#11 else 0#11, s4 := (feed 4 s.s4 b).1 } := by
  rw [exec_s4Feed, execS4Feed, accept_idle hidle, setMatch_zero]

end

/-- A word with the opcode of a sentry command and a reserved bit set is refused. -/
theorem sentry_word_rejected (w : Word)
    (h : ((opField w = 0x5#4 ∨ opField w = 0x7#4) ∧ w.extractLsb' 0 28 ≠ 0#28) ∨
      ((opField w = 0x6#4 ∨ opField w = 0x8#4) ∧ w.extractLsb' 8 20 ≠ 0#20)) :
    decodeCommand w = .rejected .reservedBits := by
  rcases h with ⟨hop, hset⟩ | ⟨hop, hset⟩
  · have format : formatOf (opField w).toNat = some .N := by rcases hop with hop | hop <;> rw [hop] <;> rfl
    exact decodeCommand_eq_rejected format (beq_eq_false_iff_ne.mpr hset)
  · have format : formatOf (opField w).toNat = some .B := by rcases hop with hop | hop <;> rw [hop] <;> rfl
    exact decodeCommand_eq_rejected format (beq_eq_false_iff_ne.mpr hset)

/-- Settles O21: the words, the effects and the refusals are the lemmas above; the rules' examples are rows of the
tables, at one byte each. -/
theorem sentryCommands : Obligations.SentryCommands := by
  unfold Obligations.SentryCommands
  refine ⟨rfl, rfl, fun b => ⟨encodeB_eq 0x6#4 b, encodeB_eq 0x8#4 b⟩, fun s hidle => ?_, feed_three_zero _,
    feed_three_one _, feed_three_two _, feed_three_two _, feed_four_zero _, feed_four_one _, feed_four_two _,
    feed_four_two _, feed_four_three _, feed_four_three _, sentry_word_rejected⟩
  exact ⟨exec_s3Clr_of_idle hidle, exec_s4Clr_of_idle hidle, exec_s3Feed_of_idle hidle, exec_s4Feed_of_idle hidle⟩

end Sys2Proof.Machine
end

section
/-! Stuffing (42_stuffing R143, R144): what `Stuff` does with one more byte, and what the sentry's count says of the
stuffed bytes. -/

namespace Sys2Proof.Machine

/-- The bytes after a prefix are stuffed from the count that the prefix leaves. -/
theorem stuffFrom_append (c : Fin 3) (xs ys : List Byte) :
    stuffFrom c (xs ++ ys) = stuffFrom c xs ++ stuffFrom (feedAll 3 c xs) ys := by
  induction xs generalizing c with
  | nil => rfl
  | cons b bs ih =>
    rw [List.cons_append, stuffFrom_cons, stuffFrom_cons, ih, feedAll_cons]
    split <;> rfl

theorem stuff_append (xs ys : List Byte) : stuff (xs ++ ys) = stuff xs ++ stuffFrom (feedAll 3 0 xs) ys :=
  stuffFrom_append 0 xs ys

section
variable {p : List Byte} {b : Byte}

theorem stuff_snoc_of_match (h : (feed 3 (feedAll 3 0 p) b).2 = true) :
    stuff (p ++ [b]) = stuff p ++ [b] ++ [stuffByte] := by
  simp [stuff_append, stuffFrom_cons, h]

theorem stuff_snoc_of_no_match (h : ¬ (feed 3 (feedAll 3 0 p) b).2 = true) : stuff (p ++ [b]) = stuff p ++ [b] := by
  simp [stuff_append, stuffFrom_cons, h]

end

/-- A stuffing byte does not move the sentry: it comes at count 0, and `FD` leaves count 0 there. -/
theorem feedAll_stuff (p : List Byte) : feedAll 3 0 (stuff p) = feedAll 3 0 p := by
  induction p using List.reverseRecOn with
  | nil => rfl
  | append_singleton p b ih =>
    by_cases hmatch : (feed 3 (feedAll 3 0 p) b).2 = true
    · have hzero : (feed 3 (feedAll 3 0 p) b).1 = 0 := Fin.ext (feed_match hmatch)
      rw [stuff_snoc_of_match hmatch, feedAll_snoc, feedAll_snoc, feedAll_snoc, ih, hzero]
      rfl
    · rw [stuff_snoc_of_no_match hmatch, feedAll_snoc, feedAll_snoc, ih]

/-- The stuffed bytes end with `FF FF` exactly when the parameters do. -/
theorem stuff_ends_FF_FF_iff (p : List Byte) : [0xFF#8, 0xFF#8] <:+ stuff p ↔ [0xFF#8, 0xFF#8] <:+ p := by
  rw [← feedAll_three_eq_two_iff, feedAll_stuff, feedAll_three_eq_two_iff]

/-- `Stuff` never stops after `FF FF FD`: an `FD` after `FF FF` is a match and is followed by the stuffing byte, and
the stuffing byte itself follows an `FD`. -/
theorem stuff_not_ends_FF_FF_FD (p : List Byte) : ¬ [0xFF#8, 0xFF#8, 0xFD#8] <:+ stuff p := by
  intro hends
  cases p using List.reverseRecOn with
  | nil => exact absurd hends (by decide)
  | append_singleton p b =>
    by_cases hmatch : (feed 3 (feedAll 3 0 p) b).2 = true
    · rw [stuff_snoc_of_match hmatch] at hends
      obtain ⟨ends_FF_FF, -⟩ := snoc_suffix_snoc_iff (xs := [0xFF#8, 0xFF#8]).mp hends
      obtain ⟨-, hFF⟩ := snoc_suffix_snoc_iff (xs := [0xFF#8]).mp ends_FF_FF
      have hFD : b = 0xFD#8 := ((feed_three_match_iff _ b).mp hmatch).2
      exact absurd (hFF.trans hFD) (by decide)
    · rw [stuff_snoc_of_no_match hmatch] at hends
      obtain ⟨ends_FF_FF, hFD⟩ := snoc_suffix_snoc_iff (xs := [0xFF#8, 0xFF#8]).mp hends
      have htwo : feedAll 3 0 p = 2 := (feedAll_three_eq_two_iff p).mpr ((stuff_ends_FF_FF_iff p).mp ends_FF_FF)
      exact hmatch ((feed_three_match_iff _ b).mpr ⟨htwo, hFD.symm⟩)

/-- Appending a byte completes a header only if it is `00` and `FF FF FD` was there. -/
theorem header_infix_snoc {xs : List Byte} {b : Byte} (h : header <:+: xs ++ [b]) :
    ([0xFF#8, 0xFF#8, 0xFD#8] <:+ xs ∧ 0x00#8 = b) ∨ header <:+: xs :=
  (List.infix_concat_iff.mp h).imp_left (snoc_suffix_snoc_iff (xs := [0xFF#8, 0xFF#8, 0xFD#8])).mp

/-- R143 on the stuffed region. -/
theorem header_not_infix_stuff (p : List Byte) : ¬ header <:+: stuff p := by
  induction p using List.reverseRecOn with
  | nil => decide
  | append_singleton p b ih =>
    have plain : ¬ header <:+: stuff p ++ [b] := fun h =>
      (header_infix_snoc h).elim (fun ⟨hends, _⟩ => stuff_not_ends_FF_FF_FD p hends) ih
    by_cases hmatch : (feed 3 (feedAll 3 0 p) b).2 = true
    · rw [stuff_snoc_of_match hmatch]
      exact fun h => (header_infix_snoc h).elim (fun ⟨_, hstuff⟩ => absurd hstuff (by decide)) plain
    · rwa [stuff_snoc_of_no_match hmatch]

/-- An instruction frame after its header (R80). -/
theorem instrFrame_drop_header (id inst : Byte) (p : List Byte) : (instrFrame id inst p).drop 4 =
    [id, loByte (frameLength p), hiByte (frameLength p)] ++ (inst :: stuff p) ++
      [loByte (frameCrc id inst p), hiByte (frameCrc id inst p)] := rfl

/-- Settles O16: for the existence clause the Instruction byte `FF` stands before the parameters `FF FD 00`, which
hold no pattern to stuff. -/
theorem stuffedRegionHasNoHeader : Obligations.StuffedRegionHasNoHeader := by
  unfold Obligations.StuffedRegionHasNoHeader
  refine ⟨header_not_infix_stuff, 0x01#8, 0xFF#8, [0xFF#8, 0xFD#8, 0x00#8], ?_⟩
  have not_stuffed : stuff [0xFF#8, 0xFD#8, 0x00#8] = [0xFF#8, 0xFD#8, 0x00#8] := by decide
  rw [instrFrame_drop_header, not_stuffed]
  exact List.infix_append ..

/-- From the same count, destuffing drops exactly the bytes that stuffing put in. -/
theorem destuffFrom_stuffFrom (c : Fin 3) (p : List Byte) : destuffFrom c false (stuffFrom c p) = p := by
  induction p generalizing c with
  | nil => rfl
  | cons b bs ih =>
    rw [stuffFrom_cons]
    split
    next hmatch => rw [destuffFrom_keep, hmatch, destuffFrom_skip, ih]
    next no_match => rw [destuffFrom_keep, Bool.eq_false_of_not_eq_true no_match, ih]

/-- Parameters that end with `FF FF FD` are stuffed to bytes that end with `FF FF FD FD`. -/
theorem stuff_ends_with_stuffByte (q : List Byte) :
    [0xFF#8, 0xFF#8, 0xFD#8, stuffByte] <:+ stuff (q ++ [0xFF#8, 0xFF#8, 0xFD#8]) := by
  have ends_FF_FF : [0xFF#8, 0xFF#8] <:+ q ++ [0xFF#8, 0xFF#8] := List.suffix_append ..
  have hmatch : (feed 3 (feedAll 3 0 (q ++ [0xFF#8, 0xFF#8])) 0xFD#8).2 = true :=
    (feed_three_match_iff _ _).mpr ⟨(feedAll_three_eq_two_iff _).mpr ends_FF_FF, rfl⟩
  have split_FD : q ++ [0xFF#8, 0xFF#8, 0xFD#8] = q ++ [0xFF#8, 0xFF#8] ++ [0xFD#8] := by simp
  obtain ⟨before, hbefore⟩ := (stuff_ends_FF_FF_iff _).mpr ends_FF_FF
  rw [split_FD, stuff_snoc_of_match hmatch, ← hbefore]
  exact ⟨before, by simp⟩

/-- Settles O17: each `FF FF FD` of the parameters is where a prefix of them ends, and `FF FF FD 00` destuffs to
`FF FF FD`. -/
theorem destuffUndoesStuff : Obligations.DestuffUndoesStuff := by
  unfold Obligations.DestuffUndoesStuff
  refine ⟨destuffFrom_stuffFrom 0, ?_, by decide⟩
  rintro _ ⟨q, rest, rfl⟩
  rw [stuff_append]
  exact (stuff_ends_with_stuffByte q).isInfix.trans (List.prefix_append ..).isInfix

end Sys2Proof.Machine
end

section
/-! The parameter-buffer commands (43_assemble R160, R161) at idle: what PB_CLR and one PB_PUSH make of the state, and
what a run of pushes makes of the parameter sequence. -/

namespace Sys2Proof.Machine

theorem exec_pbClr (s : State) : exec .pbClr s = execPbClr s := rfl
theorem exec_pbPush (b : Byte) (s : State) : exec (.pbPush b) s = execPbPush b s := rfl

theorem execAll_cons_of_next {i : Instr} {s t : State} (h : exec i s = .next t) (is : List Instr) :
    execAll (i :: is) s = execAll is t := by
  rw [execAll, h]

/-! ## The parameter sequence -/

/-- With `pwp = 0` no index of the buffer is a parameter. -/
theorem params_of_pwp_zero {s : State} (h : s.pwp = 0x0000#16) : params s = some [] :=
  params_eq_some.mpr ⟨by simp [h], by simp [h, pbufBytes]⟩

theorem pwp_toNat_of_params {s : State} {p : List Byte} (h : params s = some p) : s.pwp.toNat = p.length := by
  obtain ⟨-, rfl⟩ := params_eq_some.mp h
  rw [pbufBytes_length]

/-- A byte written at index `n` is none of the `n` bytes below it. -/
theorem pbufBytes_memoryWrite {m : Memory} (hm : memoryWf m = true) (n : Nat) (b : Byte) :
    pbufBytes (memoryWrite m n b) n = pbufBytes m n := by
  refine List.map_congr_left fun a ha => ?_
  have below : a ≠ n := (List.mem_range.mp ha).ne
  rw [memoryRead_write n a b hm, if_neg below]

/-! ## One clear, one push -/

/-- The state after PB_CLR (R160). -/
def clearParams (s : State) : State := { s with stat := 0#11, pwp := 0x0000#16 }

@[simp] theorem clearParams_pwp (s : State) : (clearParams s).pwp = 0x0000#16 := rfl
@[simp] theorem clearParams_pbufSize (s : State) : (clearParams s).pbufSize = s.pbufSize := rfl

theorem params_clearParams (s : State) : params (clearParams s) = some [] := params_of_pwp_zero (clearParams_pwp s)

/-- The state after a push that is not refused (R161). -/
def pushByte (s : State) (b : Byte) : State :=
  { s with stat := 0#11, pwp := s.pwp + 1, pbuf := memoryWrite s.pbuf s.pwp.toNat b }

@[simp] theorem pushByte_pbufSize (s : State) (b : Byte) : (pushByte s b).pbufSize = s.pbufSize := rfl
@[simp] theorem pushByte_pbuf (s : State) (b : Byte) : (pushByte s b).pbuf = memoryWrite s.pbuf s.pwp.toNat b := rfl

/-- Below PBUF_SIZE the index of 16 bits moves on without wrapping. -/
theorem pushByte_pwp_toNat {s : State} (hroom : s.pwp.toNat < s.pbufSize.val) (b : Byte) :
    (pushByte s b).pwp.toNat = s.pwp.toNat + 1 := by
  have hsize : s.pbufSize.val < 49150 := s.pbufSize.isLt
  change (s.pwp + 1).toNat = _
  bv_omega

theorem pushByte_pbuf_wf {s : State} (hwf : memoryWf s.pbuf = true) (b : Byte) :
    memoryWf (pushByte s b).pbuf = true := memoryWf_write _ b hwf

theorem memoryRead_pushByte {s : State} (hwf : memoryWf s.pbuf = true) (b : Byte) (a : Nat) :
    memoryRead (pushByte s b).pbuf a = if a = s.pwp.toNat then b else memoryRead s.pbuf a :=
  memoryRead_write _ a b hwf

/-- A push appends its byte to the parameter sequence. -/
theorem params_pushByte {s : State} {p : List Byte} (hwf : memoryWf s.pbuf = true)
    (hroom : s.pwp.toNat < s.pbufSize.val) (hp : params s = some p) (b : Byte) :
    params (pushByte s b) = some (p ++ [b]) := by
  obtain ⟨-, rfl⟩ := params_eq_some.mp hp
  refine params_eq_some.mpr ⟨pushByte_pwp_toNat hroom b ▸ hroom, ?_⟩
  rw [pushByte_pwp_toNat hroom, pbufBytes_succ, memoryRead_pushByte hwf, if_pos rfl, pushByte_pbuf,
    pbufBytes_memoryWrite hwf]

/-! ## The commands at idle -/

section
variable {s : State} (hidle : s.ph = .idle)
include hidle

theorem exec_pbClr_of_idle : exec .pbClr s = .next (clearParams s) := by
  rw [exec_pbClr, execPbClr, accept_idle hidle]
  rfl

theorem exec_pbPush_of_full (hfull : s.pwp.toNat = s.pbufSize.val) (b : Byte) :
    exec (.pbPush b) s = .next { s with stat := 0x400#11 } := by
  rw [exec_pbPush, execPbPush, accept_idle hidle, if_pos hfull, refuse, setCmderr_zero_true]

theorem exec_pbPush_of_room (hroom : s.pwp.toNat < s.pbufSize.val) (b : Byte) :
    exec (.pbPush b) s = .next (pushByte s b) := by
  have written : pbufWrite { s with stat := 0#11 } s.pwp.toNat b =
      some { s with stat := 0#11, pbuf := memoryWrite s.pbuf s.pwp.toNat b } :=
    pbufWrite_eq_some.mpr ⟨hroom, rfl⟩
  rw [exec_pbPush, execPbPush, accept_idle hidle, if_neg hroom.ne, written]
  rfl

end

/-! ## A run of pushes -/

/-- Pushes that fit are accepted one after another. -/
theorem execAll_map_pbPush {s : State} {bs : List Byte} (hidle : s.ph = .idle)
    (hfit : s.pwp.toNat + bs.length ≤ s.pbufSize.val) :
    execAll (bs.map .pbPush) s = .next (bs.foldl pushByte s) := by
  induction bs generalizing s with
  | nil => rfl
  | cons b bs ih =>
    rw [List.length_cons] at hfit
    have hroom : s.pwp.toNat < s.pbufSize.val := by omega
    have hrest : (pushByte s b).pwp.toNat + bs.length ≤ (pushByte s b).pbufSize.val := by
      rw [pushByte_pwp_toNat hroom, pushByte_pbufSize]
      omega
    rw [List.map_cons, execAll_cons_of_next (exec_pbPush_of_room hidle hroom b), ih (s := pushByte s b) hidle hrest,
      List.foldl_cons]

/-- Pushes that fit append their bytes to the parameter sequence. -/
theorem params_foldl_pushByte {s : State} {p bs : List Byte} (hwf : memoryWf s.pbuf = true) (hp : params s = some p)
    (hfit : p.length + bs.length ≤ s.pbufSize.val) : params (bs.foldl pushByte s) = some (p ++ bs) := by
  induction bs generalizing s p with
  | nil => rwa [List.append_nil]
  | cons b bs ih =>
    rw [List.length_cons] at hfit
    have hroom : s.pwp.toNat < s.pbufSize.val := by rw [pwp_toNat_of_params hp]; omega
    have hrest : (p ++ [b]).length + bs.length ≤ (pushByte s b).pbufSize.val := by
      rw [List.length_append, List.length_singleton, pushByte_pbufSize]
      omega
    rw [List.foldl_cons, ih (pushByte_pbuf_wf hwf b) (params_pushByte hwf hroom hp b) hrest, List.append_cons p b bs]

/-- PB_CLR and then pushes that fit leave exactly the pushed bytes as the parameter sequence. -/
theorem execAll_pbClr_map_pbPush {s : State} {bs : List Byte} (hidle : s.ph = .idle) (hwf : memoryWf s.pbuf = true)
    (hfit : bs.length ≤ s.pbufSize.val) :
    ∃ t, execAll (.pbClr :: bs.map .pbPush) s = .next t ∧ params t = some bs := by
  refine ⟨bs.foldl pushByte (clearParams s), ?_,
    params_foldl_pushByte (s := clearParams s) hwf (params_clearParams s) (by simpa using hfit)⟩
  rw [execAll_cons_of_next (exec_pbClr_of_idle hidle)]
  exact execAll_map_pbPush (s := clearParams s) hidle (by simpa using hfit)

/-! ## The obligations -/

/-- Settles O22: PB_CLR writes no field but STAT and `pwp`, and with `pwp = 0` there is no parameter. -/
theorem pbClrCommand : Obligations.PbClrCommand := by
  unfold Obligations.PbClrCommand
  refine ⟨rfl, fun s => exec_pbClr_of_idle, params_clearParams, fun w hop hset => ?_⟩
  exact decodeCommand_eq_rejected (f := .N) (by rw [hop]; rfl) (beq_eq_false_iff_ne.mpr hset)

/-- Settles O23: a push that fits gives `pushByte`; the rule's example is a cleared buffer and four pushes. -/
theorem pbPushCommand : Obligations.PbPushCommand := by
  unfold Obligations.PbPushCommand
  refine ⟨encodeB_eq 0xA#4, fun s b hidle => ⟨fun hfull => exec_pbPush_of_full hidle hfull b, fun hroom hwf => ?_⟩,
    fun s hidle hwf hfit => ?_, fun w hop hset => ?_⟩
  · exact ⟨pushByte s b, exec_pbPush_of_room hidle hroom b, rfl, pushByte_pwp_toNat hroom b, pushByte_pbuf_wf hwf b,
      memoryRead_pushByte hwf b⟩
  · obtain ⟨t, pushes, hparams⟩ :=
      execAll_pbClr_map_pbPush (bs := [0x84#8, 0x00#8, 0x04#8, 0x00#8]) hidle hwf hfit
    exact ⟨t, pushes, hparams, BitVec.eq_of_toNat_eq (pwp_toNat_of_params hparams)⟩
  · exact decodeCommand_eq_rejected (f := .B) (by rw [hop]; rfl) (beq_eq_false_iff_ne.mpr hset)

end Sys2Proof.Machine
end

section
/-! The two directions of encoding (30_encoding R71 to R79, 45_wire_tags R212): what decodes to an instruction is its
encoding; and the words and bytes that decode to none. -/

namespace Sys2Proof

theorem eq_ofNat_of_toNat_eq {k n : Nat} {x : BitVec k} (h : x.toNat = n) : x = BitVec.ofNat k n := by
  rw [← h, BitVec.ofNat_toNat, BitVec.setWidth_eq]

/-! ## Words that decode -/

section
variable {w : Word} {n : Nat} (hop : (opField w).toNat = n)
include hop

theorem encodeN_of_clear (h : clearN w = true) : encodeN (BitVec.ofNat 4 n) = .command w := by
  rw [← eq_ofNat_of_toNat_eq hop, encodeN, wordN w h]

theorem encodeB_of_clear (h : clearB w = true) : encodeB (BitVec.ofNat 4 n) (bField w) = .command w := by
  rw [← eq_ofNat_of_toNat_eq hop, encodeB, wordB w h]

theorem encodeH_of_clear (h : clearH w = true) : encodeH (BitVec.ofNat 4 n) (vField w) = .command w := by
  rw [← eq_ofNat_of_toNat_eq hop, encodeH, wordH w h]

theorem encodeA_of_clear (h : clearH w = true) :
    encodeA (BitVec.ofNat 4 n) (idField w) (instField w) = .command w := by
  rw [← eq_ofNat_of_toNat_eq hop, encodeA, wordA w h]

theorem encodeP_of_clear (h : clearP w = true) :
    encodeP (BitVec.ofNat 4 n) (ceField w) (capField w) = .command w := by
  rw [← eq_ofNat_of_toNat_eq hop, encodeP, wordP w h]

end

theorem encode_of_whenClear {clear : Bool} {i j : Instr} {c : Code} (henc : clear = true → encode j = c)
    (h : whenClear clear j = .instr i) : encode i = c := by
  obtain ⟨hclear, rfl⟩ := whenClear_eq_instr.mp h
  exact henc hclear

/-- A word that decodes to a command is that command's encoding, format by format (R71, R73). -/
theorem encode_of_decodeCommand {w : Word} {i : Instr} (h : decodeCommand w = .instr i) : encode i = .command w := by
  unfold decodeCommand at h
  split at h
  case h_1 hop | h_4 hop | h_5 hop | h_7 hop | h_9 hop | h_12 hop => exact encode_of_whenClear (encodeN_of_clear hop) h
  case h_3 hop | h_6 hop | h_8 hop | h_10 hop => exact encode_of_whenClear (encodeB_of_clear hop) h
  case h_2 hop => exact encode_of_whenClear (encodeH_of_clear hop) h
  case h_11 hop => exact encode_of_whenClear (encodeA_of_clear hop) h
  case h_13 hop => exact encode_of_whenClear (encodeP_of_clear hop) h
  case h_14 => cases h

/-! ## Bytes that decode -/

/-- The tags and their bytes are those of the table, in both directions (R213 to R228). -/
theorem wireTagTable_decode_encode :
    ∀ p ∈ wireTagTable, decodeTag p.2 = .instr p.1 ∧ encode p.1 = .tag p.2 := by decide

theorem mem_wireTagTable_of_encode {i : Instr} {b : Byte} (h : encode i = .tag b) : (i, b) ∈ wireTagTable := by
  cases i <;> cases h <;> decide

theorem mem_wireTagTable_of_decodeTag {b : Byte} {i : Instr} (h : decodeTag b = .instr i) :
    (i, b) ∈ wireTagTable := by
  unfold decodeTag at h
  split at h <;> cases h
  all_goals
    next hb =>
      rw [eq_ofNat_of_toNat_eq hb]
      decide

theorem encode_of_decodeTag {b : Byte} {i : Instr} (h : decodeTag b = .instr i) : encode i = .tag b :=
  (wireTagTable_decode_encode _ (mem_wireTagTable_of_decodeTag h)).2

theorem decodeTag_of_encode {i : Instr} {b : Byte} (h : encode i = .tag b) : decodeTag b = .instr i :=
  (wireTagTable_decode_encode _ (mem_wireTagTable_of_encode h)).1

theorem decodeTag_rejected {b : Byte} {why : Rejected} (h : decodeTag b = .rejected why) : why = .unnamedTag := by
  unfold decodeTag at h
  split at h <;> cases h
  rfl

/-! ## The obligations on both -/

/-- Settles O1: a command's word and a tag's byte each have their own decoder. -/
theorem decodeOfEncodeIsIdentity : Obligations.DecodeOfEncodeIsIdentity := by
  unfold Obligations.DecodeOfEncodeIsIdentity
  intro i
  cases hcode : encode i with
  | command w => exact decodeCommand_of_encode hcode
  | tag b => exact decodeTag_of_encode hcode

/-- Settles O2: an accepted word is rebuilt from its opcode, its zero bits and its operands; a tag byte is read off the
table. -/
theorem encodeOfDecodeIsIdentity : Obligations.EncodeOfDecodeIsIdentity := by
  unfold Obligations.EncodeOfDecodeIsIdentity
  intro c i h
  cases c with
  | command w => exact encode_of_decodeCommand h
  | tag b => exact encode_of_decodeTag h

/-- Settles O6: a byte that decodes stands in the table. -/
theorem wireTagBytesDecode : Obligations.WireTagBytesDecode := by
  unfold Obligations.WireTagBytesDecode
  refine ⟨wireTagTable_decode_encode, fun b unlisted => ?_⟩
  cases hd : decodeTag b with
  | instr i => exact absurd rfl (unlisted _ (mem_wireTagTable_of_decodeTag hd))
  | rejected why => rw [decodeTag_rejected hd]

/-! ## Words that are refused -/

theorem decodeCommand_rejected_iff_not_instr {w : Word} :
    (∃ why, decodeCommand w = .rejected why) ↔ ¬ ∃ i, decodeCommand w = .instr i := by
  cases decodeCommand w <;> simp

theorem decodeCommand_instr_iff_spells {w : Word} :
    (∃ i, decodeCommand w = .instr i) ↔ ∃ r ∈ commandRows, r.spells w = true := by
  constructor
  · rintro ⟨i, hi⟩
    obtain ⟨r, hr, -, hspells⟩ := spells_row_of_decodeCommand hi
    exact ⟨r, hr, hspells⟩
  · rintro ⟨r, hr, hspells⟩
    obtain ⟨i, hi, -⟩ := decodeCommand_of_spells hr hspells
    exact ⟨i, hi⟩

/-- A word is refused exactly when it spells no row (R72, R77). -/
theorem decodeCommand_rejected_iff_no_row {w : Word} :
    (∃ why, decodeCommand w = .rejected why) ↔ ∀ r ∈ commandRows, w &&& r.mask ≠ r.bits := by
  rw [decodeCommand_rejected_iff_not_instr, decodeCommand_instr_iff_spells]
  simp [Row.spells_iff]

theorem formatOf_eq_none_iff : ∀ op : BitVec 4, formatOf op.toNat = none ↔ ReservedOpcode op := by
  unfold ReservedOpcode
  decide

/-- Masking a word down to the bits from `k` to 27 leaves 0 exactly when those bits are 0. -/
theorem and_midMask_eq_zero_iff {k : Nat} (w m : Word)
    (hm : ∀ j : Fin 32, m.getLsbD j = decide (k ≤ j.val ∧ j.val < 28)) :
    w &&& m = 0#32 ↔ w.extractLsb' k (28 - k) = 0#(28 - k) := by
  constructor
  · intro masked
    ext j hj
    have bit : (w &&& m).getLsbD (k + j) = false := by simp [masked]
    rw [BitVec.getLsbD_and, hm ⟨k + j, by omega⟩] at bit
    simpa [show k + j < 28 by omega] using bit
  · intro zero
    apply BitVec.eq_of_getLsbD_eq
    intro j hj
    rw [BitVec.getLsbD_and, hm ⟨j, hj⟩]
    by_cases hmid : k ≤ j ∧ j < 28
    · have bit : (w.extractLsb' k (28 - k)).getLsbD (j - k) = false := by simp [zero]
      have inside : j - k < 28 - k := by omega
      simpa [hmid, inside] using bit
    · simp [hmid]

/-- The reserved bits of R71 as a mask of the word. -/
theorem reservedClear_iff (f : Format) (w : Word) :
    f.reservedClear w = true ↔ w &&& 0x0FFFFFFF#32 &&& ~~~ f.operandMask = 0#32 := by
  rw [BitVec.and_assoc]
  cases f with
  | N => exact beq_iff_eq.trans (and_midMask_eq_zero_iff (k := 0) w _ (by decide)).symm
  | B => exact beq_iff_eq.trans (and_midMask_eq_zero_iff (k := 8) w _ (by decide)).symm
  | H | A => exact beq_iff_eq.trans (and_midMask_eq_zero_iff (k := 16) w _ (by decide)).symm
  | P => exact beq_iff_eq.trans (and_midMask_eq_zero_iff (k := 17) w _ (by decide)).symm

/-- A word is refused exactly when its opcode is reserved or a bit that its format reserves is set (R77). -/
theorem decodeCommand_rejected_iff_reserved {w : Word} :
    (∃ why, decodeCommand w = .rejected why) ↔
      (ReservedOpcode (opField w) ∨
        ∃ f, formatOf (opField w).toNat = some f ∧ w &&& 0x0FFFFFFF#32 &&& ~~~ f.operandMask ≠ 0#32) := by
  rw [← formatOf_eq_none_iff]
  cases hf : formatOf (opField w).toNat with
  | none => simp [decodeCommand_of_reservedOpcode ((formatOf_eq_none_iff _).mp hf)]
  | some f =>
    obtain ⟨i, hd⟩ := decodeCommand_of_formatOf hf
    rw [hd]
    simp [whenClear_eq_rejected, ← reservedClear_iff]

/-- Settles O4, by the format of the opcode and by the rows of the opcode map. -/
theorem decodeRejectsReservedWords : Obligations.DecodeRejectsReservedWords := by
  unfold Obligations.DecodeRejectsReservedWords
  refine fun w => ⟨?_, decodeCommand_rejected_iff_no_row⟩
  rw [decodeCommand_rejected_iff_reserved, ReservedOpcode, or_assoc, or_assoc]

end Sys2Proof
end

section
/-! The CRC as a code (40_crc R108, 44_parse R188): each byte fed moves the accumulator one to one, so a change of one
byte stays visible to the end of the list. -/

namespace Sys2Proof.Machine

theorem fold_injective_left (bs : List Byte) : Function.Injective fun s : Half => fold s bs := by
  induction bs with
  | nil => exact Function.injective_id
  | cons b bs ih => exact ih.comp (adv_injective_left b)

theorem adv_injective_right (s : Half) : Function.Injective (adv s) := by
  intro b b' h
  rw [adv_eq_crcShifts, adv_eq_crcShifts] at h
  have halves : (b ++ 0x00#8 : Half) = b' ++ 0x00#8 := BitVec.xor_right_inj s |>.mp (crcShifts_injective 8 h)
  simpa using congrArg hiByte halves

/-- Settles O10: `Adv` is one to one in the byte, and the fold of the bytes that follow in the accumulator. -/
theorem crcSeesOneChangedByte : Obligations.CrcSeesOneChangedByte := by
  unfold Obligations.CrcSeesOneChangedByte
  intro s xs ys b b' hne hfold
  simp only [fold_append, fold_cons] at hfold
  exact hne (adv_injective_right _ (fold_injective_left ys hfold))

/-- Settles O11, by evaluation. -/
theorem knownFrameCrcs : Obligations.KnownFrameCrcs := ⟨fold_header, rfl, by decide, by decide, by decide⟩

end Sys2Proof.Machine
end

section
/-! What the count of the 4-byte sentry says of the bytes fed since it was clear (41_sentry R124). -/

namespace Sys2Proof.Machine

theorem feed_four_match_iff (c : Fin 4) (b : Byte) : (feed 4 c b).2 = true ↔ c = 3 ∧ b = 0x00#8 := by
  match c with
  | 0 => rw [feed_four_zero]; split <;> simp
  | 1 => rw [feed_four_one]; split <;> simp
  | 2 => rw [feed_four_two]; split_ifs <;> simp
  | 3 => rw [feed_four_three]; split <;> simp_all

theorem feed_four_eq_three_iff (c : Fin 4) (b : Byte) : (feed 4 c b).1 = 3 ↔ c = 2 ∧ b = 0xFD#8 := by
  match c with
  | 0 => rw [feed_four_zero]; split <;> simp
  | 1 => rw [feed_four_one]; split <;> simp
  | 2 => rw [feed_four_two]; split_ifs <;> simp_all
  | 3 => rw [feed_four_three]; split <;> simp

theorem feed_four_eq_two_iff (c : Fin 4) (b : Byte) : (feed 4 c b).1 = 2 ↔ (c = 1 ∨ c = 2) ∧ b = 0xFF#8 := by
  match c with
  | 0 => rw [feed_four_zero]; split <;> simp
  | 1 => rw [feed_four_one]; split <;> simp_all
  | 2 => rw [feed_four_two]; split_ifs <;> simp_all
  | 3 => rw [feed_four_three]; split <;> simp

theorem feed_four_eq_one_iff (c : Fin 4) (b : Byte) : (feed 4 c b).1 = 1 ↔ c = 0 ∧ b = 0xFF#8 := by
  match c with
  | 0 => rw [feed_four_zero]; split <;> simp_all
  | 1 => rw [feed_four_one]; split <;> simp
  | 2 => rw [feed_four_two]; split_ifs <;> simp
  | 3 => rw [feed_four_three]; split <;> simp

theorem ends_FF_of_count_one_or_two {p : List Byte} (h : feedAll 4 0 p = 1 ∨ feedAll 4 0 p = 2) : [0xFF#8] <:+ p := by
  cases p using List.reverseRecOn with
  | nil => simp at h
  | append_singleton p b =>
    rw [feedAll_snoc, feed_four_eq_one_iff, feed_four_eq_two_iff] at h
    obtain rfl : b = 0xFF#8 := h.elim And.right And.right
    exact List.suffix_append p _

theorem ends_FF_FF_of_count_two {p : List Byte} (h : feedAll 4 0 p = 2) : [0xFF#8, 0xFF#8] <:+ p := by
  cases p using List.reverseRecOn with
  | nil => simp at h
  | append_singleton p b =>
    rw [feedAll_snoc, feed_four_eq_two_iff] at h
    obtain ⟨hcount, rfl⟩ := h
    exact snoc_suffix_snoc_iff (xs := [0xFF#8]).mpr ⟨ends_FF_of_count_one_or_two hcount, rfl⟩

theorem ends_FF_FF_FD_of_count_three {p : List Byte} (h : feedAll 4 0 p = 3) : [0xFF#8, 0xFF#8, 0xFD#8] <:+ p := by
  cases p using List.reverseRecOn with
  | nil => simp at h
  | append_singleton p b =>
    rw [feedAll_snoc, feed_four_eq_three_iff] at h
    obtain ⟨hcount, rfl⟩ := h
    exact snoc_suffix_snoc_iff (xs := [0xFF#8, 0xFF#8]).mpr ⟨ends_FF_FF_of_count_two hcount, rfl⟩

/-- A match is `00` at count 3, hence the end of a header. -/
theorem ends_header_of_match {p : List Byte} {b : Byte} (h : (feed 4 (feedAll 4 0 p) b).2 = true) :
    header <:+ p ++ [b] := by
  obtain ⟨hcount, rfl⟩ := (feed_four_match_iff _ b).mp h
  exact snoc_suffix_snoc_iff (xs := [0xFF#8, 0xFF#8, 0xFD#8]).mpr ⟨ends_FF_FF_FD_of_count_three hcount, rfl⟩

/-- A header fed from a count is missed from count 3 alone. -/
theorem header_missed_iff :
    ∀ c : Fin 4, (feed 4 (feedAll 4 c [0xFF#8, 0xFF#8, 0xFD#8]) 0x00#8).2 = false ↔ c = 3 := by decide

/-- Settles O14: what the count says gives the first and the last clause, the four counts one by one the second. -/
theorem headerSentryMissesOneCase : Obligations.HeaderSentryMissesOneCase := by
  unfold Obligations.HeaderSentryMissesOneCase
  refine ⟨fun p b => ends_header_of_match, fun q => ?_, fun q => ends_FF_FF_FD_of_count_three⟩
  rw [feedAll_append]
  exact header_missed_iff _

end Sys2Proof.Machine
end

section
/-! The lengths of stuffed and destuffed lists (42_stuffing R140, R141; 44_parse R191). A match is paid for by the
count it takes back to 0, so `n` bytes lie between two matches. -/

namespace Sys2Proof.Machine

/-- A byte adds at most 1 to the count, and a match takes the whole pattern off it. -/
theorem feed_count_add_match_le (n : Nat) (c : Fin n) (b : Byte) :
    (feed n c b).1.val + n * (feed n c b).2.toNat ≤ c.val + 1 := by
  have advance := sentryNext_le c.val b
  unfold feed
  split
  next hmatch => simpa [hmatch] using advance
  next => simpa using advance

theorem length_stuffFrom (c : Fin 3) (p : List Byte) : (stuffFrom c p).length = p.length + stuffCountFrom c p := by
  induction p generalizing c with
  | nil => rfl
  | cons b bs ih =>
    rw [stuffFrom_cons, stuffCountFrom_cons]
    cases (feed 3 c b).2 <;> simp [ih] <;> omega

theorem length_stuff (p : List Byte) : (stuff p).length = p.length + stuffCount p := length_stuffFrom 0 p

theorem three_mul_stuffCountFrom_le (c : Fin 3) (p : List Byte) : 3 * stuffCountFrom c p ≤ p.length + c.val := by
  induction p generalizing c with
  | nil => simp
  | cons b bs ih =>
    have paid := feed_count_add_match_le 3 c b
    have rest := ih (feed 3 c b).1
    rw [stuffCountFrom_cons, List.length_cons]
    omega

theorem three_mul_stuffCount_le (p : List Byte) : 3 * stuffCount p ≤ p.length := three_mul_stuffCountFrom_le 0 p

/-- Settles O15: a stuffing byte per match, and a match at most once in three bytes. -/
theorem stuffedLength : Obligations.StuffedLength := by
  unfold Obligations.StuffedLength
  intro p
  have bound := three_mul_stuffCount_le p
  exact ⟨length_stuff p, by omega⟩

theorem length_destuffFrom_le (c : Fin 3) (skip : Bool) (r : List Byte) :
    (destuffFrom c skip r).length ≤ r.length := by
  induction r generalizing c skip with
  | nil => simp
  | cons b bs ih =>
    cases skip with
    | true => exact (ih c false).trans (Nat.le_succ _)
    | false => simpa using ih _ _

/-- Four raw bytes keep three logical ones, but for what the count and a pending skip already stand for. -/
theorem three_mul_length_le_destuffFrom (c : Fin 3) (skip : Bool) (r : List Byte) :
    3 * r.length ≤ 4 * (destuffFrom c skip r).length + c.val + 3 * skip.toNat := by
  induction r generalizing c skip with
  | nil => simp
  | cons b bs ih =>
    cases skip with
    | true =>
      have rest := ih c false
      rw [destuffFrom_skip, List.length_cons]
      simp at rest ⊢
      omega
    | false =>
      have paid := feed_count_add_match_le 3 c b
      have rest := ih (feed 3 c b).1 (feed 3 c b).2
      rw [destuffFrom_keep, List.length_cons, List.length_cons]
      omega

/-- Settles O18: a byte is dropped at most once in four. -/
theorem destuffedLengthBounds : Obligations.DestuffedLengthBounds := by
  unfold Obligations.DestuffedLengthBounds
  intro r
  have lower : 3 * r.length ≤ 4 * (destuff r).length := three_mul_length_le_destuffFrom 0 false r
  exact ⟨length_destuffFrom_le 0 false r, by omega⟩

end Sys2Proof.Machine
end

section
/-! Every instruction at idle, and held while an operation runs (10_state R29, R33; log entries 7 and 8). `Accepted`
says once what acceptance of each command makes of the state; the facts about all commands are read off it. -/

namespace Sys2Proof.Machine

/-! ## Commands and tags -/

/-- A command acts through `accept`. -/
theorem exec_eq_accept {i : Instr} (hi : isCommand i = true) : ∃ act, ∀ s, exec i s = accept act s := by
  cases i <;> cases hi
  all_goals
    simp only [exec, execCrcClr, execCrcLd, execCrcAdv, execCrcFold, execS3Clr, execS3Feed, execS4Clr, execS4Feed,
      execPbClr, execPbPush, execAsm, execHunt, execParse]
    exact ⟨_, fun _ => rfl⟩

theorem isCommand_of_encode {i : Instr} {w : Word} (h : encode i = .command w) : isCommand i = true := by
  cases i <;> cases h <;> rfl

theorem isCommand_of_decodeCommand {w : Word} {i : Instr} (h : decodeCommand w = .instr i) : isCommand i = true :=
  isCommand_of_encode (encode_of_decodeCommand h)

/-- What is no command is a wire tag. -/
theorem exists_tag_of_not_command {i : Instr} (hi : isCommand i = false) : ∃ b, encode i = .tag b := by
  cases hcode : encode i with
  | command w => rw [isCommand_of_encode hcode] at hi; cases hi
  | tag b => exact ⟨b, rfl⟩

theorem exec_of_busy {i : Instr} {s : State} (hi : isCommand i = true) (hbusy : s.ph ≠ .idle) :
    exec i s = .next s := by
  obtain ⟨act, hact⟩ := exec_eq_accept hi
  rw [hact, accept_busy hbusy]

/-- A wire tag handles its own byte. -/
theorem exec_of_tag {i : Instr} {b : Byte} (h : encode i = .tag b) (s : State) :
    exec i s = .next (instructionByte b s) :=
  exec_of_decodeTag (decodeTag_of_encode h) s

section
variable {s : State} (t : Byte)

theorem instructionByte_of_idle (h : s.ph = .idle) : instructionByte t s = refuse s := by
  rw [instructionByte, h]

theorem instructionByte_of_pInst (h : s.ph = .pInst) : instructionByte t s = recvInst t s := by
  rw [instructionByte, h]

theorem instructionByte_of_aInst (h : s.ph = .aInst) : instructionByte t s = sendInst t s := by
  rw [instructionByte, h]

theorem instructionByte_of_held (hidle : s.ph ≠ .idle) (hpInst : s.ph ≠ .pInst) (haInst : s.ph ≠ .aInst) :
    instructionByte t s = s := by
  unfold instructionByte
  split <;> simp_all

end

theorem refuse_eq (s : State) : refuse s = { s with stat := 0x400#11 } := by
  rw [refuse, setCmderr_zero_true]

theorem exec_tag_of_idle {i : Instr} {s : State} (hi : isCommand i = false) (hidle : s.ph = .idle) :
    exec i s = .next { s with stat := 0x400#11 } := by
  obtain ⟨b, hb⟩ := exists_tag_of_not_command hi
  rw [exec_of_tag hb, instructionByte_of_idle b hidle, refuse_eq]

/-! ## ASM, HUNT and PARSE at acceptance -/

theorem exec_asm (id inst : Byte) (s : State) : exec (.asm id inst) s = execAsm id inst s := rfl
theorem exec_hunt (s : State) : exec .hunt s = execHunt s := rfl
theorem exec_parse (ce : Bool) (cap : Half) (s : State) : exec (.parse ce cap) s = execParse ce cap s := rfl

/-- The state after acceptance of ASM with parameters `p` (R164). -/
def startAsm (id inst : Byte) (p : List Byte) (s : State) : State :=
  { s with stat := 0#11, crc := 0x0000#16, alen := frameLength p, opId := id, opInst := inst, ph := .aH0 }

/-- The state after acceptance of PARSE (R181). -/
def startParse (ce : Bool) (cap : Half) (s : State) : State :=
  { s with
    stat := 0#11, rid := 0x00#8, rlen := 0x0000#16, rinst := 0x00#8, rerr := 0x00#8, rem := 0x0000#16,
    rcrc := 0x0000#16, nlog := 0x0000#16, skip := false, crc := hdrSeed, s3 := 0,
    opCe := ce, opCap := cap, ph := .pId }

/-- ASM's 16-bit sum is the Length of the frame. -/
theorem asm_alen_eq (n : Half) {p : List Byte} (hn : n.toNat = p.length) :
    n + BitVec.ofNat 16 (stuffCount p) + instrOverhead = frameLength p := by
  rw [eq_ofNat_of_toNat_eq hn, instrOverhead, frameLength, ← BitVec.ofNat_add, ← BitVec.ofNat_add]

section
variable {s : State} (hidle : s.ph = .idle)
include hidle

theorem exec_asm_of_idle {p : List Byte} (hp : params s = some p) (id inst : Byte) :
    exec (.asm id inst) s = .next (startAsm id inst p s) := by
  have hparams : params { s with stat := 0#11 } = some p := hp
  have hlen := asm_alen_eq s.pwp (pwp_toNat_of_params hp)
  rw [exec_asm, execAsm, accept_idle hidle, hparams]
  simp only [hlen]
  rfl

theorem exec_hunt_of_idle : exec .hunt s = .next { s with stat := 0#11, ph := .hRx } := by
  rw [exec_hunt, execHunt, accept_idle hidle]

theorem exec_parse_of_idle (ce : Bool) (cap : Half) : exec (.parse ce cap) s = .next (startParse ce cap s) := by
  rw [exec_parse, execParse, accept_idle hidle]
  rfl

end

/-! ## Everything acceptance of a command can do -/

/-- `Accepted s i t`: the command `i`, accepted in the idle state `s`, makes it `t`. -/
inductive Accepted (s : State) : Instr → State → Prop
  | crcClr : Accepted s .crcClr { s with stat := 0#11, crc := 0x0000#16 }
  | crcLd (v : Half) : Accepted s (.crcLd v) { s with stat := 0#11, crc := v }
  | crcAdv (b : Byte) : Accepted s (.crcAdv b) { s with stat := 0#11, crc := adv s.crc b }
  | crcFold {p : List Byte} (hp : params s = some p) :
    Accepted s .crcFold { s with stat := 0#11, crc := fold s.crc p }
  | s3Clr : Accepted s .s3Clr { s with stat := 0#11, s3 := 0 }
  | s3Feed (b : Byte) : Accepted s (.s3Feed b)
      { s with stat := if (feed 3 s.s3 b).2 then 0x200#11 else 0#11, s3 := (feed 3 s.s3 b).1 }
  | s4Clr : Accepted s .s4Clr { s with stat := 0#11, s4 := 0 }
  | s4Feed (b : Byte) : Accepted s (.s4Feed b)
      { s with stat := if (feed 4 s.s4 b).2 then 0x200#11 else 0#11, s4 := (feed 4 s.s4 b).1 }
  | pbClr : Accepted s .pbClr (clearParams s)
  | pbPush (b : Byte) (hroom : s.pwp.toNat < s.pbufSize.val) : Accepted s (.pbPush b) (pushByte s b)
  | pbPushFull (b : Byte) (hfull : s.pwp.toNat = s.pbufSize.val) :
    Accepted s (.pbPush b) { s with stat := 0x400#11 }
  | asm (id inst : Byte) {p : List Byte} (hp : params s = some p) : Accepted s (.asm id inst) (startAsm id inst p s)
  | hunt : Accepted s .hunt { s with stat := 0#11, ph := .hRx }
  | parse (ce : Bool) (cap : Half) : Accepted s (.parse ce cap) (startParse ce cap s)

theorem exec_crcFold_of_params {s : State} {p : List Byte} (hidle : s.ph = .idle) (hp : params s = some p) :
    exec .crcFold s = .next { s with stat := 0#11, crc := fold s.crc p } := by
  obtain ⟨hpwp, rfl⟩ := params_eq_some.mp hp
  exact exec_crcFold_of_idle hidle hpwp

theorem exec_of_accepted {i : Instr} {s t : State} (hidle : s.ph = .idle) (h : Accepted s i t) :
    exec i s = .next t := by
  cases h with
  | crcClr => exact exec_crcClr_of_idle hidle
  | crcLd v => exact exec_crcLd_of_idle hidle v
  | crcAdv b => exact exec_crcAdv_of_idle hidle b
  | crcFold hp => exact exec_crcFold_of_params hidle hp
  | s3Clr => exact exec_s3Clr_of_idle hidle
  | s3Feed b => exact exec_s3Feed_of_idle hidle b
  | s4Clr => exact exec_s4Clr_of_idle hidle
  | s4Feed b => exact exec_s4Feed_of_idle hidle b
  | pbClr => exact exec_pbClr_of_idle hidle
  | pbPush b hroom => exact exec_pbPush_of_room hidle hroom b
  | pbPushFull b hfull => exact exec_pbPush_of_full hidle hfull b
  | asm id inst hp => exact exec_asm_of_idle hidle hp id inst
  | hunt => exact exec_hunt_of_idle hidle
  | parse ce cap => exact exec_parse_of_idle hidle ce cap

section
variable {s : State} (hidle : s.ph = .idle)
include hidle

theorem exec_crcFold_of_no_params (hp : params s = none) : exec .crcFold s = .fault .pbufOutOfRange := by
  have hparams : params { s with stat := 0#11 } = none := hp
  rw [exec_crcFold, execCrcFold, accept_idle hidle, hparams]

theorem exec_asm_of_no_params (hp : params s = none) (id inst : Byte) :
    exec (.asm id inst) s = .fault .pbufOutOfRange := by
  have hparams : params { s with stat := 0#11 } = none := hp
  rw [exec_asm, execAsm, accept_idle hidle, hparams]

theorem exec_pbPush_of_no_params (hp : params s = none) (b : Byte) :
    exec (.pbPush b) s = .fault .pbufOutOfRange := by
  have above : s.pbufSize.val < s.pwp.toNat := params_eq_none.mp hp
  have unwritten : pbufWrite { s with stat := 0#11 } s.pwp.toNat b = none := pbufWrite_eq_none.mpr above.le
  rw [exec_pbPush, execPbPush, accept_idle hidle, if_neg above.ne', unwritten]

end

/-- A command at idle is accepted, but for the three that use the parameter sequence when it is out of range. -/
theorem exists_accepted_or_fault {i : Instr} {s : State} (hi : isCommand i = true) (hidle : s.ph = .idle) :
    (∃ t, Accepted s i t) ∨ (params s = none ∧ exec i s = .fault .pbufOutOfRange) := by
  cases i with
  | crcClr => exact .inl ⟨_, .crcClr⟩
  | crcLd v => exact .inl ⟨_, .crcLd v⟩
  | crcAdv b => exact .inl ⟨_, .crcAdv b⟩
  | crcFold =>
    cases hp : params s with
    | some p => exact .inl ⟨_, .crcFold hp⟩
    | none => exact .inr ⟨rfl, exec_crcFold_of_no_params hidle hp⟩
  | s3Clr => exact .inl ⟨_, .s3Clr⟩
  | s3Feed b => exact .inl ⟨_, .s3Feed b⟩
  | s4Clr => exact .inl ⟨_, .s4Clr⟩
  | s4Feed b => exact .inl ⟨_, .s4Feed b⟩
  | pbClr => exact .inl ⟨_, .pbClr⟩
  | pbPush b =>
    cases hp : params s with
    | some p =>
      rcases (params_eq_some.mp hp).1.eq_or_lt with hfull | hroom
      · exact .inl ⟨_, .pbPushFull b hfull⟩
      · exact .inl ⟨_, .pbPush b hroom⟩
    | none => exact .inr ⟨rfl, exec_pbPush_of_no_params hidle hp b⟩
  | asm id inst =>
    cases hp : params s with
    | some p => exact .inl ⟨_, .asm id inst hp⟩
    | none => exact .inr ⟨rfl, exec_asm_of_no_params hidle hp id inst⟩
  | hunt => exact .inl ⟨_, .hunt⟩
  | parse ce cap => exact .inl ⟨_, .parse ce cap⟩
  | _ => cases hi

/-- `Accepted` is what a command at idle does. -/
theorem accepted_iff_exec {i : Instr} {s t : State} (hi : isCommand i = true) (hidle : s.ph = .idle) :
    Accepted s i t ↔ exec i s = .next t := by
  refine ⟨exec_of_accepted hidle, fun h => ?_⟩
  rcases exists_accepted_or_fault hi hidle with ⟨u, hu⟩ | ⟨-, hfault⟩
  · obtain rfl : u = t := Host.Outcome.next.inj ((exec_of_accepted hidle hu).symm.trans h)
    exact hu
  · rw [h] at hfault
    cases hfault

/-! ## The obligations on acceptance -/

/-- Settles O24: with `pwp` in range the parameter sequence exists, so ASM starts too. -/
theorem multiEventCommandsStart : Obligations.MultiEventCommandsStart := by
  unfold Obligations.MultiEventCommandsStart
  intro s hidle
  refine ⟨fun id inst hpwp => ?_, exec_hunt_of_idle hidle, exec_parse_of_idle hidle⟩
  exact exec_asm_of_idle hidle (params_eq_some.mpr ⟨hpwp, rfl⟩) id inst

theorem sendInst_eq (b : Byte) (s : State) : sendInst b s = { s with
    trace := s.trace ++ [.pushTx b], crc := adv s.crc b, s3 := 0, idx := 0x0000#16,
    ph := if 0 < s.pwp.toNat then .aPar else .aC0 } := rfl

/-- Settles O25: each tag handles its own byte, as the port event of its phase does. -/
theorem wireTagsAtInstructionByte : Obligations.WireTagsAtInstructionByte := by
  unfold Obligations.WireTagsAtInstructionByte
  rintro ⟨i, b⟩ hp s
  rw [exec_of_tag (wireTagTable_decode_encode _ hp).2]
  refine ⟨fun hph => ?_, fun hph => ?_⟩
  · rw [instructionByte_of_pInst b hph, recvInst]
  · rw [instructionByte_of_aInst b hph, sendInst_eq]

/-- The byte of a tag, as a command word, has opcode 0. -/
theorem opField_setWidth_byte (b : Byte) : opField (b.setWidth 32) = 0x0#4 := by
  unfold opField
  ext j hj
  simp [BitVec.getLsbD_of_ge b (28 + j) (by omega)]

/-- Settles O26: a tag at idle is refused, and away from its two phases held. -/
theorem wireTagsElsewhere : Obligations.WireTagsElsewhere := by
  unfold Obligations.WireTagsElsewhere
  rintro ⟨i, b⟩ hp s
  rw [exec_of_tag (wireTagTable_decode_encode _ hp).2]
  refine ⟨fun hidle => ⟨?_, ?_⟩, fun hidle hpInst haInst => ?_⟩
  · exact decodeCommand_of_reservedOpcode (.inl (opField_setWidth_byte b))
  · rw [instructionByte_of_idle b hidle, refuse_eq]
  · rw [instructionByte_of_held b hidle hpInst haInst]

/-- Settles O27: acceptance and refusal both overwrite STAT before anything reads it. -/
theorem acceptanceClearsStat : Obligations.AcceptanceClearsStat := by
  unfold Obligations.AcceptanceClearsStat
  intro i s v hidle
  have hidle' : ({ s with stat := v } : State).ph = .idle := hidle
  cases hi : isCommand i with
  | true =>
    obtain ⟨act, hact⟩ := exec_eq_accept hi
    rw [hact, hact, accept_idle hidle, accept_idle hidle']
  | false => rw [exec_tag_of_idle hi hidle, exec_tag_of_idle hi hidle']

/-- STAT after acceptance: 0, the match bit of a feeding command, or a refused push. -/
theorem Accepted.stat {i : Instr} {s t : State} (h : Accepted s i t) :
    t.stat = 0#11 ∨ (t.stat = 0x200#11 ∧ ((∃ b, i = .s3Feed b) ∨ (∃ b, i = .s4Feed b))) ∨
      (t.stat = 0x400#11 ∧ (∃ b, i = .pbPush b) ∧ s.pwp.toNat = s.pbufSize.val) := by
  cases h with
  | s3Feed b =>
    cases hmatch : (feed 3 s.s3 b).2 with
    | true => exact .inr (.inl ⟨rfl, .inl ⟨b, rfl⟩⟩)
    | false => exact .inl rfl
  | s4Feed b =>
    cases hmatch : (feed 4 s.s4 b).2 with
    | true => exact .inr (.inl ⟨rfl, .inr ⟨b, rfl⟩⟩)
    | false => exact .inl rfl
  | pbPushFull b hfull => exact .inr (.inr ⟨rfl, ⟨b, rfl⟩, hfull⟩)
  | _ => exact .inl rfl

/-- Settles O28, from the three values that STAT can have after acceptance. -/
theorem acceptedCommandsReportNoKind : Obligations.AcceptedCommandsReportNoKind := by
  unfold Obligations.AcceptedCommandsReportNoKind
  intro i s t hidle h
  cases hi : isCommand i with
  | true =>
    rcases ((accepted_iff_exec hi hidle).mpr h).stat with hstat | ⟨hstat, hfeed⟩ | ⟨hstat, hpush⟩ <;> rw [hstat]
    · exact ⟨by decide, by decide, fun h => absurd h (by decide), fun h => absurd h (by decide)⟩
    · exact ⟨by decide, by decide, fun _ => hfeed, fun h => absurd h (by decide)⟩
    · exact ⟨by decide, by decide, fun h => absurd h (by decide), fun _ => .inl hpush⟩
  | false =>
    rw [exec_tag_of_idle hi hidle] at h
    have hstat : t.stat = 0x400#11 := congrArg State.stat (Host.Outcome.next.inj h).symm
    rw [hstat]
    exact ⟨by decide, by decide, fun h => absurd h (by decide), fun _ => .inr rfl⟩

end Sys2Proof.Machine
end

section
/-! Everything a step can do (70_reset_and_hazards R271, R295; log entries 1 and 2): a wait, a reset, the acceptance or
refusal of a command word, or one port event with what it may write. -/

namespace Sys2Proof.Machine

/-! ## A step by the environment's turn -/

section
variable {s : State}

theorem step_of_go (h : s.turn = .go) : step s = engine (dropTurn s) := by rw [step, h]
theorem step_of_wait (h : s.turn = .wait) : step s = .next (dropTurn s) := by rw [step, h]
theorem step_of_reset (h : s.turn = .reset) : step s = .next (resetBlock (dropTurn s)) := by rw [step, h]

theorem engine_of_no_word (hidle : s.ph = .idle) (hcmds : s.cmds = []) : engine s = .next s := by
  simp only [engine, fetch, fetchCommand, portEvent, hidle, hcmds, if_pos]

theorem engine_of_instr {w : Word} {ws : List Word} {i : Instr} (hidle : s.ph = .idle) (hcmds : s.cmds = w :: ws)
    (hd : decodeCommand w = .instr i) : engine s = exec i (acceptWord ws s) := by
  simp only [engine, fetch, fetchCommand, decode, hidle, hcmds, hd, if_pos]

theorem engine_of_rejected {w : Word} {ws : List Word} {why : Rejected} (hidle : s.ph = .idle)
    (hcmds : s.cmds = w :: ws) (hd : decodeCommand w = .rejected why) :
    engine s = .next (refuse (acceptWord ws s)) := by
  simp only [engine, fetch, fetchCommand, decode, hidle, hcmds, hd, if_pos]

end

/-- `StepEffect s t`: what made the step from `s` to `t`, and what it did. -/
inductive StepEffect (s t : State) : Prop
  | waited (hturn : s.turn = .wait) (ht : t = dropTurn s)
  | reset (hturn : s.turn = .reset) (ht : t = resetBlock (dropTurn s))
  | idled (hturn : s.turn = .go) (hidle : s.ph = .idle) (hcmds : s.cmds = []) (ht : t = dropTurn s)
  | accepted (hturn : s.turn = .go) (hidle : s.ph = .idle) {w : Word} {ws : List Word} {i : Instr}
    (hcmds : s.cmds = w :: ws) (hd : decodeCommand w = .instr i) (h : Accepted (acceptWord ws (dropTurn s)) i t)
  | refused (hturn : s.turn = .go) (hidle : s.ph = .idle) {w : Word} {ws : List Word} {why : Rejected}
    (hcmds : s.cmds = w :: ws) (hd : decodeCommand w = .rejected why) (ht : t = refuse (acceptWord ws (dropTurn s)))
  | event (hturn : s.turn = .go) (hbusy : s.ph ≠ .idle) (h : portEvent (dropTurn s) = .next t)

theorem step_effect {s t : State} (h : step s = .next t) : StepEffect s t := by
  rcases step_cases s with ⟨hturn, hstep⟩ | ⟨hturn, hstep⟩ | ⟨hturn, hstep⟩ <;> rw [hstep] at h
  · by_cases hidle : s.ph = .idle
    · rcases engine_idle (s := dropTurn s) hidle with
        ⟨hcmds, he⟩ | ⟨w, ws, i, hcmds, hd, he⟩ | ⟨w, ws, why, hcmds, hd, he⟩ <;> rw [he] at h
      · exact .idled hturn hidle hcmds (Host.Outcome.next.inj h).symm
      · exact .accepted hturn hidle hcmds hd
          ((accepted_iff_exec (s := acceptWord ws (dropTurn s)) (isCommand_of_decodeCommand hd) hidle).mpr h)
      · exact .refused hturn hidle hcmds hd (Host.Outcome.next.inj h).symm
    · rw [engine_busy (s := dropTurn s) hidle] at h
      exact .event hturn hidle h
  · exact .waited hturn (Host.Outcome.next.inj h).symm
  · exact .reset hturn (Host.Outcome.next.inj h).symm

/-! ## What a port event may write -/

/-- What a pull of PARSE and the work up to the next event may write: the parser's registers but `nlog`, the CRC, STAT
but `cmderr`, the phase and the byte held. -/
structure ParserWrites (s t : State) : Prop where
  frame : t = { s with
    rid := t.rid, rlen := t.rlen, rinst := t.rinst, rerr := t.rerr, rem := t.rem, rcrc := t.rcrc, skip := t.skip,
    crc := t.crc, stat := t.stat, ph := t.ph, held := t.held }
  cmderr : statCmderr t.stat = statCmderr s.stat

/-- `PortEffect s t`: the port event of `s` that leaves `t`, and what it may write. -/
inductive PortEffect (s t : State) : Prop
  | waited (ht : t = s)
  | sent (hph : isAsmPhase s.ph = true) (b : Byte)
    (ht : t = { s with trace := s.trace ++ [.pushTx b], crc := t.crc, s3 := t.s3, idx := t.idx, ph := t.ph })
  | hunted (hph : s.ph = .hRx) {b : Byte} {bs : List Byte} (hrx : s.rx = b :: bs)
    (ht : t = { s with rx := bs, trace := s.trace ++ [.pull b], s4 := t.s4, stat := t.stat, ph := t.ph })
    (hcmderr : statCmderr t.stat = statCmderr s.stat)
  | received (hph : isParsePhase s.ph = true) {b : Byte} {bs : List Byte} (hrx : s.rx = b :: bs)
    (ht : ParserWrites (pulled b bs s) t)
  | passedOn (hph : s.ph = .pOut)
    (ht : t = { s with
      trace := s.trace ++ [.pushPo s.held], nlog := t.nlog, s3 := t.s3, skip := t.skip, ph := t.ph })

theorem ParserWrites.trans {s t u : State} (hst : ParserWrites s t) (htu : ParserWrites t u) : ParserWrites s u := by
  refine ⟨?_, htu.cmderr.trans hst.cmderr⟩
  rw [htu.frame, hst.frame]

theorem parserWrites_fail (k : LocalKind) (s : State) : ParserWrites s (fail k s) := ⟨rfl, by simp⟩

theorem parserWrites_rawLoop (s : State) : ParserWrites s (rawLoop s) := by
  rcases rawLoop_eq s with ⟨-, h⟩ | ⟨-, h⟩ <;> rw [h] <;> exact ⟨rfl, rfl⟩

theorem parserWrites_checkHead (s : State) : ParserWrites s (checkHead s) := by
  have counted : ParserWrites s { s with rem := s.rlen - statusOverhead } := ⟨rfl, rfl⟩
  rcases checkHead_eq s with ⟨-, h⟩ | ⟨-, -, h⟩ | ⟨-, -, -, -, h⟩ | ⟨-, -, -, h⟩ <;> rw [h]
  · exact parserWrites_fail _ s
  · exact parserWrites_fail _ s
  · exact counted.trans (parserWrites_fail _ _)
  · exact counted.trans (parserWrites_rawLoop _)

theorem parserWrites_verdict (s : State) : ParserWrites s (verdict s) := by
  rcases verdict_eq s with ⟨-, h⟩ | ⟨-, -, h⟩ | ⟨-, -, h⟩ <;> rw [h] <;> exact ⟨rfl, by simp⟩

theorem parserWrites_recvErr (b : Byte) (s : State) : ParserWrites s (recvErr b s) :=
  ParserWrites.trans (t := { s with rerr := b, crc := adv s.crc b }) ⟨rfl, rfl⟩ (parserWrites_checkHead _)

/-- A raw byte is dropped when `skip` is set and held for its push when it is not (R187). -/
theorem recvRaw_eq (b : Byte) (s : State) :
    (s.skip = true ∧ recvRaw b s = rawLoop { s with crc := adv s.crc b, rem := s.rem - 1, skip := false }) ∨
      (s.skip = false ∧ recvRaw b s = { s with crc := adv s.crc b, rem := s.rem - 1, held := b, ph := .pOut }) := by
  unfold recvRaw
  cases hskip : s.skip <;> simp

theorem parserWrites_recvRaw (b : Byte) (s : State) : ParserWrites s (recvRaw b s) := by
  rcases recvRaw_eq b s with ⟨-, h⟩ | ⟨-, h⟩ <;> rw [h]
  · exact ParserWrites.trans (t := { s with crc := adv s.crc b, rem := s.rem - 1, skip := false }) ⟨rfl, rfl⟩
      (parserWrites_rawLoop _)
  · exact ⟨rfl, rfl⟩

theorem parserWrites_recvC1 (b : Byte) (s : State) : ParserWrites s (recvC1 b s) :=
  ParserWrites.trans (t := { s with rcrc := setHi s.rcrc b }) ⟨rfl, rfl⟩ (parserWrites_verdict _)

/-- A pull of PARSE waits, or is followed by its handler on the byte pulled. -/
theorem received_of_pullThen {s : State} {k : Byte → State → State} (hph : isParsePhase s.ph = true)
    (hk : ∀ b u, ParserWrites u (k b u)) : PortEffect s (pullThen k s) := by
  rcases pullThen_cases k s with ⟨-, h⟩ | ⟨b, bs, hrx, h⟩ <;> rw [h]
  · exact .waited rfl
  · exact .received hph hrx (hk b _)

/-- A byte that completes the header ends HUNT, any other leaves it at its pull (R129). -/
theorem huntByte_eq (b : Byte) (s : State) :
    ((feed 4 s.s4 b).2 = true ∧
      huntByte b s = { s with s4 := (feed 4 s.s4 b).1, stat := setMatch s.stat true, ph := .idle }) ∨
    ((feed 4 s.s4 b).2 = false ∧ huntByte b s = { s with s4 := (feed 4 s.s4 b).1 }) := by
  unfold huntByte
  cases hmatch : (feed 4 s.s4 b).2 <;> simp

theorem hunted_of_pullThen {s : State} (hph : s.ph = .hRx) : PortEffect s (pullThen huntByte s) := by
  rcases pullThen_cases huntByte s with ⟨-, h⟩ | ⟨b, bs, hrx, h⟩ <;> rw [h]
  · exact .waited rfl
  · rcases huntByte_eq b (pulled b bs s) with ⟨-, h⟩ | ⟨-, h⟩ <;> rw [h]
    · exact .hunted hph hrx rfl (by simp)
    · exact .hunted hph hrx rfl rfl

/-- A parameter byte is followed by its stuffing byte on a match, else by the loop's test (R164). -/
theorem sendParam_eq (b : Byte) (s : State) :
    ((feed 3 s.s3 b).2 = true ∧ sendParam b s =
      { s with trace := s.trace ++ [.pushTx b], crc := adv s.crc b, s3 := (feed 3 s.s3 b).1, idx := s.idx + 1,
               ph := .aStf }) ∨
    ((feed 3 s.s3 b).2 = false ∧ sendParam b s = paramLoop
      { s with trace := s.trace ++ [.pushTx b], crc := adv s.crc b, s3 := (feed 3 s.s3 b).1, idx := s.idx + 1 }) := by
  unfold sendParam
  cases hmatch : (feed 3 s.s3 b).2
  · exact .inr ⟨rfl, rfl⟩
  · exact .inl ⟨rfl, rfl⟩

/-- The event `A_PAR` sends the byte of the buffer at `idx`, if that index exists. -/
theorem asmParam_eq_next {s t : State} : asmParam s = .next t ↔
    s.idx.toNat < s.pbufSize.val ∧ t = sendParam (memoryRead s.pbuf s.idx.toNat) s := by
  unfold asmParam
  cases hread : pbufRead s s.idx.toNat with
  | some b =>
    obtain ⟨in_range, rfl⟩ := pbufRead_eq_some.mp hread
    simp [in_range, eq_comm]
  | none =>
    have out_of_range := pbufRead_eq_none.mp hread
    simp [out_of_range]

theorem sent_of_asmParam {s t : State} (hph : isAsmPhase s.ph = true) (h : asmParam s = .next t) : PortEffect s t := by
  obtain ⟨-, rfl⟩ := asmParam_eq_next.mp h
  refine .sent hph (memoryRead s.pbuf s.idx.toNat) ?_
  rcases sendParam_eq (memoryRead s.pbuf s.idx.toNat) s with ⟨-, h⟩ | ⟨-, h⟩
  · rw [h]
  · rw [h]
    rfl

theorem passedOn_of_sendLogical {s : State} (hph : s.ph = .pOut) : PortEffect s (sendLogical s) := by
  refine .passedOn hph ?_
  unfold sendLogical
  rcases rawLoop_eq { pushPo s.held s with
    nlog := s.nlog + 1, s3 := (feed 3 s.s3 s.held).1, skip := (feed 3 s.s3 s.held).2 } with ⟨-, h⟩ | ⟨-, h⟩
  all_goals
    rw [h]
    rfl

/-- Every port event has one of the effects, phase by phase. -/
theorem portEffect_of_portEvent {s t : State} (h : portEvent s = .next t) : PortEffect s t := by
  cases hph : s.ph <;> simp only [portEvent, hph] at h
  case aPar => exact sent_of_asmParam (by rw [hph]; rfl) h
  all_goals obtain rfl := Host.Outcome.next.inj h
  case idle => exact .waited rfl
  case aH0 | aH1 | aH2 | aH3 | aId | aL0 | aL1 | aInst | aStf | aC0 | aC1 => exact .sent (by rw [hph]; rfl) _ rfl
  case hRx => exact hunted_of_pullThen hph
  case pId | pL0 | pL1 | pInst | pC0 => exact received_of_pullThen (by rw [hph]; rfl) fun _ _ => ⟨rfl, rfl⟩
  case pErr => exact received_of_pullThen (by rw [hph]; rfl) parserWrites_recvErr
  case pRaw => exact received_of_pullThen (by rw [hph]; rfl) parserWrites_recvRaw
  case pOut => exact passedOn_of_sendLogical hph
  case pC1 => exact received_of_pullThen (by rw [hph]; rfl) parserWrites_recvC1

/-! ## The obligations on single steps -/

/-- Settles O30: at idle the engine fetches from the command port alone. -/
theorem stepRunsAcceptedCommand : Obligations.StepRunsAcceptedCommand := by
  unfold Obligations.StepRunsAcceptedCommand
  intro s w ws i hturn hidle hcmds hd
  rw [step_of_go hturn, engine_of_instr (s := dropTurn s) hidle hcmds hd]
  rfl

/-- Settles O31: the tag and the port event do the same. -/
theorem stepHandlesInstructionByte : Obligations.StepHandlesInstructionByte := by
  unfold Obligations.StepHandlesInstructionByte
  intro s hturn
  refine ⟨fun b bs hph hrx => ?_, fun hph => ?_⟩
  · have hbusy : (dropTurn s).ph ≠ .idle := by rw [dropTurn_ph, hph]; decide
    have event : step s = .next (recvInst b (pulled b bs (dropTurn s))) := by
      rw [step_of_go hturn, engine_busy hbusy]
      simp only [portEvent, dropTurn_ph, hph, pullThen, dropTurn_rx, hrx]
    refine ⟨fun i hd => ?_, event⟩
    rw [event, exec_of_decodeTag hd]
    exact congrArg Host.Outcome.next (instructionByte_of_pInst (s := pulled b bs (dropTurn s)) b hph).symm
  · have hbusy : (dropTurn s).ph ≠ .idle := by rw [dropTurn_ph, hph]; decide
    have event : step s = .next (sendInst s.opInst (dropTurn s)) := by
      rw [step_of_go hturn, engine_busy hbusy]
      simp only [portEvent, dropTurn_ph, hph, dropTurn_opInst]
    refine ⟨fun i hd => ?_, event⟩
    rw [event, exec_of_decodeTag hd]
    exact congrArg Host.Outcome.next (instructionByte_of_aInst (s := dropTurn s) s.opInst hph).symm

/-- A row that decodes is placed where the next step meets it. -/
theorem withFetchWord_of_decodeTableWord {nbits w : Nat} {i : Instr} (h : decodeTableWord nbits w = some i)
    (s : State) :
    ∃ c, codeOfTableWord nbits w = some c ∧ decode c = .instr i ∧ s.withFetchWord nbits w = placeCode c s := by
  unfold decodeTableWord at h
  unfold State.withFetchWord
  cases hcode : codeOfTableWord nbits w with
  | none => rw [hcode] at h; cases h
  | some c =>
    refine ⟨c, rfl, ?_, rfl⟩
    rw [hcode] at h
    cases hd : decode c <;> simp_all [Decoded.toOption]

theorem codeOfTableWord_32 {w : Nat} {c : Code} (h : codeOfTableWord 32 w = some c) :
    c = .command (BitVec.ofNat 32 w) := by
  simpa [eq_comm] using (Option.ite_none_right_eq_some.mp h).2

theorem codeOfTableWord_8 {w : Nat} {c : Code} (h : codeOfTableWord 8 w = some c) : c = .tag (BitVec.ofNat 8 w) := by
  simpa [eq_comm] using (Option.ite_none_right_eq_some.mp h).2

/-- Settles O32: a placed word is on the port of an idle block that goes on, a placed byte in front of a PARSE that
waits for it. -/
theorem placedWordRunsNext : Obligations.PlacedWordRunsNext := by
  unfold Obligations.PlacedWordRunsNext
  refine fun s w i => ⟨fun h => ?_, fun h => ?_⟩ <;>
    obtain ⟨c, hcode, hd, placed⟩ := withFetchWord_of_decodeTableWord h s <;> rw [placed]
  · obtain rfl := codeOfTableWord_32 hcode
    exact stepRunsAcceptedCommand _ _ s.cmds i rfl rfl rfl hd
  · obtain rfl := codeOfTableWord_8 hcode
    exact ((stepHandlesInstructionByte _ rfl).1 _ s.rx rfl rfl).1 i hd

/-- Settles O33: a word that spells no row does not decode, and what does not decode is refused. -/
theorem reservedWordIsRefused : Obligations.ReservedWordIsRefused := by
  unfold Obligations.ReservedWordIsRefused
  intro s w ws hturn hidle hcmds no_row
  obtain ⟨why, hd⟩ := decodeCommand_rejected_iff_no_row.mpr no_row
  rw [step_of_go hturn, engine_of_rejected (s := dropTurn s) hidle hcmds hd, refuse_eq]
  rfl

/-- Settles O35: reset looks at no register. -/
theorem resetTurnResetsTheBlock : Obligations.ResetTurnResetsTheBlock := by
  unfold Obligations.ResetTurnResetsTheBlock
  exact fun s hturn => ⟨_, step_of_reset hturn, rfl, rfl, rfl, rfl, rfl, rfl, rfl⟩

/-- Settles O48, by the two values of busy. -/
theorem hostReadsAtIdleOnly : Obligations.HostReadsAtIdleOnly := by
  unfold Obligations.HostReadsAtIdleOnly
  intro s
  refine ⟨by simp [State.busy], fun hbusy => ?_, fun hidle => ?_⟩
  · simp [hostView, State.busy, hbusy]
  · simp [hostView, (State.busy_eq_false_iff s).mpr hidle]

end Sys2Proof.Machine
end

section
/-! What every step keeps (20_memory R50 to R63, 10_state R22 to R36): read off the effects of acceptance and of the
port events. -/

namespace Sys2Proof.Machine

/-! ## What acceptance of a command keeps -/

section
variable {i : Instr} {s t : State}

/-- Acceptance performs no port event and takes no other word. -/
theorem Accepted.ports (h : Accepted s i t) : t.trace = s.trace ∧ t.rx = s.rx ∧ t.cmds = s.cmds := by
  cases h <;> exact ⟨rfl, rfl, rfl⟩

theorem Accepted.s4 (h : Accepted s i t) (hne : t.s4 ≠ s.s4) : i = .s4Clr ∨ ∃ b, i = .s4Feed b := by
  cases h with
  | s4Clr => exact .inl rfl
  | s4Feed b => exact .inr ⟨b, rfl⟩
  | _ => exact absurd rfl hne

/-- The eight registers of the parser that the host reads (R25) are the same in both states. -/
def ParserRegsEq (s t : State) : Prop :=
  t.rid = s.rid ∧ t.rlen = s.rlen ∧ t.rinst = s.rinst ∧ t.rerr = s.rerr ∧ t.rem = s.rem ∧ t.rcrc = s.rcrc ∧
    t.nlog = s.nlog ∧ t.skip = s.skip

theorem Accepted.parserRegs (h : Accepted s i t) (hi : ∀ ce cap, i ≠ .parse ce cap) : ParserRegsEq s t := by
  cases h with
  | parse ce cap => exact absurd rfl (hi ce cap)
  | _ => exact ⟨rfl, rfl, rfl, rfl, rfl, rfl, rfl, rfl⟩

/-- The buffer is written by a push that fits alone, and `pwp` by it and PB_CLR. -/
theorem Accepted.buffer (h : Accepted s i t) :
    (t.pbuf = s.pbuf ∧ t.pwp = s.pwp) ∨ (t.pbuf = s.pbuf ∧ i = .pbClr) ∨
      ∃ b, i = .pbPush b ∧ t.pbuf = memoryWrite s.pbuf s.pwp.toNat b := by
  cases h with
  | pbClr => exact .inr (.inl ⟨rfl, rfl⟩)
  | pbPush b => exact .inr (.inr ⟨b, rfl, rfl⟩)
  | _ => exact .inl ⟨rfl, rfl⟩

end

/-! ## What a port event keeps -/

section
variable {s t : State}

theorem ParserWrites.rx (h : ParserWrites s t) : t.rx = s.rx := (congrArg State.rx h.frame :)
theorem ParserWrites.trace (h : ParserWrites s t) : t.trace = s.trace := (congrArg State.trace h.frame :)
theorem ParserWrites.cmds (h : ParserWrites s t) : t.cmds = s.cmds := (congrArg State.cmds h.frame :)
theorem ParserWrites.s4 (h : ParserWrites s t) : t.s4 = s.s4 := (congrArg State.s4 h.frame :)
theorem ParserWrites.pbuf (h : ParserWrites s t) : t.pbuf = s.pbuf := (congrArg State.pbuf h.frame :)
theorem ParserWrites.pwp (h : ParserWrites s t) : t.pwp = s.pwp := (congrArg State.pwp h.frame :)
theorem ParserWrites.pbufSize (h : ParserWrites s t) : t.pbufSize = s.pbufSize := (congrArg State.pbufSize h.frame :)

theorem PortEffect.cmds (h : PortEffect s t) : t.cmds = s.cmds := by
  cases h with
  | waited ht | sent _ _ ht | hunted _ _ ht _ | passedOn _ ht => rw [ht]
  | received _ _ ht => exact ht.cmds

theorem PortEffect.pbuf (h : PortEffect s t) : t.pbuf = s.pbuf := by
  cases h with
  | waited ht | sent _ _ ht | hunted _ _ ht _ | passedOn _ ht => rw [ht]
  | received _ _ ht => exact ht.pbuf

theorem PortEffect.pwp (h : PortEffect s t) : t.pwp = s.pwp := by
  cases h with
  | waited ht | sent _ _ ht | hunted _ _ ht _ | passedOn _ ht => rw [ht]
  | received _ _ ht => exact ht.pwp

theorem PortEffect.pbufSize (h : PortEffect s t) : t.pbufSize = s.pbufSize := by
  cases h with
  | waited ht | sent _ _ ht | hunted _ _ ht _ | passedOn _ ht => rw [ht]
  | received _ _ ht => exact ht.pbufSize

theorem PortEffect.s4 (h : PortEffect s t) (hne : t.s4 ≠ s.s4) : s.ph = .hRx := by
  cases h with
  | hunted hph => exact hph
  | waited ht | sent _ _ ht | passedOn _ ht => rw [ht] at hne; exact absurd rfl hne
  | received _ _ ht => exact absurd ht.s4 hne

theorem PortEffect.cmderr (h : PortEffect s t) : statCmderr t.stat = statCmderr s.stat := by
  cases h with
  | waited ht | sent _ _ ht | passedOn _ ht => rw [ht]
  | hunted _ _ _ hcmderr => exact hcmderr
  | received _ _ ht => exact ht.cmderr

theorem PortEffect.parserRegs (h : PortEffect s t) (hph : isParsePhase s.ph = false) : ParserRegsEq s t := by
  cases h with
  | waited ht | sent _ _ ht | hunted _ _ ht _ => rw [ht]; exact ⟨rfl, rfl, rfl, rfl, rfl, rfl, rfl, rfl⟩
  | received hparse => rw [hph] at hparse; cases hparse
  | passedOn hparse => rw [hparse] at hph; cases hph

/-! ## The port events of a step -/

/-- `PortMove s t`: the port events and RX of `t` are those of `s` after nothing, one push, or one pull of the next
byte of RX. -/
inductive PortMove (s t : State) : Prop
  | none (htrace : t.trace = s.trace) (hrx : t.rx = s.rx)
  | tx (hph : isAsmPhase s.ph = true) (b : Byte) (htrace : t.trace = s.trace ++ [.pushTx b]) (hrx : t.rx = s.rx)
  | po (hph : s.ph = .pOut) (b : Byte) (htrace : t.trace = s.trace ++ [.pushPo b]) (hrx : t.rx = s.rx)
  | pull (hph : s.ph = .hRx ∨ isParsePhase s.ph = true) (b : Byte) (htrace : t.trace = s.trace ++ [.pull b])
    (hrx : s.rx = b :: t.rx)

theorem PortEffect.move (h : PortEffect s t) : PortMove s t := by
  cases h with
  | waited ht => exact .none (by rw [ht]) (by rw [ht])
  | sent hph b ht => exact .tx hph b (congrArg State.trace ht) (by rw [ht])
  | hunted hph hrx ht _ => exact .pull (.inl hph) _ (congrArg State.trace ht) (by rw [ht, hrx])
  | received hph hrx ht => exact .pull (.inr hph) _ ht.trace (by rw [ht.rx, hrx, pulled_rx])
  | passedOn hph ht => exact .po hph _ (congrArg State.trace ht) (by rw [ht])

/-- A step moves at most one byte over one port; a wait, a reset or an accepted word moves none. -/
theorem portMove_of_step (h : step s = .next t) : PortMove s t := by
  cases step_effect h with
  | waited _ ht | reset _ ht | idled _ _ _ ht | refused _ _ _ _ ht => exact .none (by rw [ht]; rfl) (by rw [ht]; rfl)
  | accepted _ _ _ _ haccepted =>
    obtain ⟨htrace, hrx, -⟩ := haccepted.ports
    exact .none htrace hrx
  | event _ _ hevent =>
    cases (portEffect_of_portEvent hevent).move with
    | none htrace hrx => exact .none htrace hrx
    | tx hph b htrace hrx => exact .tx hph b htrace hrx
    | po hph b htrace hrx => exact .po hph b htrace hrx
    | pull hph b htrace hrx => exact .pull hph b htrace hrx

end

section
variable (u : List PortEvent) (b : Byte)

@[simp] theorem pulledBytes_snoc_pull : pulledBytes (u ++ [.pull b]) = pulledBytes u ++ [b] := by simp [pulledBytes]
@[simp] theorem pulledBytes_snoc_pushTx : pulledBytes (u ++ [.pushTx b]) = pulledBytes u := by simp [pulledBytes]
@[simp] theorem pulledBytes_snoc_pushPo : pulledBytes (u ++ [.pushPo b]) = pulledBytes u := by simp [pulledBytes]
@[simp] theorem txBytes_snoc_pull : txBytes (u ++ [.pull b]) = txBytes u := by simp [txBytes]
@[simp] theorem txBytes_snoc_pushPo : txBytes (u ++ [.pushPo b]) = txBytes u := by simp [txBytes]
@[simp] theorem poBytes_snoc_pull : poBytes (u ++ [.pull b]) = poBytes u := by simp [poBytes]
@[simp] theorem poBytes_snoc_pushTx : poBytes (u ++ [.pushTx b]) = poBytes u := by simp [poBytes]

end

/-! ## The obligations -/

/-- Settles O29: no effect of a step but acceptance and refusal, both at idle, takes a word. -/
theorem busyEngineHoldsCommands : Obligations.BusyEngineHoldsCommands := by
  unfold Obligations.BusyEngineHoldsCommands
  refine fun s hbusy => ⟨fun i hi => exec_of_busy hi hbusy, fun t h => ?_⟩
  cases step_effect h with
  | waited _ ht | reset _ ht => rw [ht]; rfl
  | idled _ hidle | accepted _ hidle | refused _ hidle => exact absurd hidle hbusy
  | event _ _ hevent => exact (portEffect_of_portEvent hevent).cmds

/-- Settles O38, by the step's move at the ports. -/
theorem oneIrrevocableEventPerStep : Obligations.OneIrrevocableEventPerStep := by
  unfold Obligations.OneIrrevocableEventPerStep
  intro s t h
  cases portMove_of_step h with
  | none htrace => exact .inl htrace
  | tx _ b htrace | po _ b htrace | pull _ b htrace => exact .inr ⟨_, htrace⟩

/-- Settles O39: a pull moves the byte from the head of RX to the end of the bytes pulled. -/
theorem pullsConsumeRxInOrder : Obligations.PullsConsumeRxInOrder := by
  unfold Obligations.PullsConsumeRxInOrder
  intro s t h
  cases portMove_of_step h with
  | none htrace hrx => rw [htrace, hrx]
  | tx _ b htrace hrx => rw [htrace, hrx, pulledBytes_snoc_pushTx]
  | po _ b htrace hrx => rw [htrace, hrx, pulledBytes_snoc_pushPo]
  | pull _ b htrace hrx => rw [htrace, hrx, pulledBytes_snoc_pull, List.append_assoc, List.singleton_append]

/-- Settles O40: a move at the ports knows its phase. -/
theorem portsBelongToOperations : Obligations.PortsBelongToOperations := by
  unfold Obligations.PortsBelongToOperations
  intro s t h
  cases portMove_of_step h with
  | none htrace hrx => simp [htrace, hrx]
  | tx hph b htrace hrx => simp [htrace, hrx, hph]
  | po hph b htrace hrx => simp [htrace, hrx, hph]
  | pull hph b htrace hrx => simp [htrace, hph]

/-- Settles O41: of the effects of a step, each that can change `s4` is one of those named. -/
theorem headerCountKeptByOthers : Obligations.HeaderCountKeptByOthers := by
  unfold Obligations.HeaderCountKeptByOthers
  intro s t h hne
  cases step_effect h with
  | waited _ ht | idled _ _ _ ht | refused _ _ _ _ ht => rw [ht] at hne; exact absurd rfl hne
  | reset hturn => exact .inl hturn
  | accepted _ hidle hcmds hd haccepted => exact .inr (.inr ⟨hidle, _, _, _, hcmds, hd, haccepted.s4 hne⟩)
  | event _ _ hevent => exact .inr (.inl ((portEffect_of_portEvent hevent).s4 hne))

/-- Settles O42: acceptance of other commands and port events outside PARSE leave the parser's registers. -/
theorem parserRegistersLast : Obligations.ParserRegistersLast := by
  unfold Obligations.ParserRegistersLast
  intro s t h no_reset hph no_parse
  cases step_effect h with
  | waited _ ht | idled _ _ _ ht | refused _ _ _ _ ht => rw [ht]; exact ⟨rfl, rfl, rfl, rfl, rfl, rfl, rfl, rfl⟩
  | reset hturn => exact absurd hturn no_reset
  | accepted _ hidle hcmds hd haccepted =>
    exact haccepted.parserRegs fun ce cap hi => no_parse ⟨_, _, ce, cap, hidle, hcmds, hi ▸ hd⟩
  | event _ _ hevent => exact (portEffect_of_portEvent hevent).parserRegs hph

/-- What a step that is no reset does to the buffer and `pwp`. -/
theorem buffer_of_step {s t : State} (h : step s = .next t) (no_reset : s.turn ≠ .reset) :
    (t.pbuf = s.pbuf ∧ t.pwp = s.pwp) ∨
    (s.ph = .idle ∧ ∃ w ws i, s.cmds = w :: ws ∧ decodeCommand w = .instr i ∧
      ((t.pbuf = s.pbuf ∧ i = .pbClr) ∨ ∃ b, i = .pbPush b ∧ t.pbuf = memoryWrite s.pbuf s.pwp.toNat b)) := by
  cases step_effect h with
  | waited _ ht | idled _ _ _ ht | refused _ _ _ _ ht => rw [ht]; exact .inl ⟨rfl, rfl⟩
  | reset hturn => exact absurd hturn no_reset
  | accepted _ hidle hcmds hd haccepted =>
    rcases haccepted.buffer with hkept | hwrite
    · exact .inl hkept
    · exact .inr ⟨hidle, _, _, _, hcmds, hd, hwrite⟩
  | event _ _ hevent => exact .inl ⟨(portEffect_of_portEvent hevent).pbuf, (portEffect_of_portEvent hevent).pwp⟩

/-- Settles O43: by read after write, an index that reads differently after a push is the written one. -/
theorem bufferWrittenOnlyByPush : Obligations.BufferWrittenOnlyByPush := by
  unfold Obligations.BufferWrittenOnlyByPush
  intro s t h no_reset
  rcases buffer_of_step h no_reset with
    ⟨hpbuf, hpwp⟩ | ⟨hidle, w, ws, i, hcmds, hd, ⟨hpbuf, rfl⟩ | ⟨b, rfl, hpbuf⟩⟩
  · simp [hpbuf, hpwp]
  · exact ⟨fun _ => ⟨hidle, w, ws, _, hcmds, hd, .inl rfl⟩, fun _ a hne => absurd (by rw [hpbuf]) hne⟩
  · refine ⟨fun _ => ⟨hidle, w, ws, _, hcmds, hd, .inr ⟨b, rfl⟩⟩, fun hwf a hne => ?_⟩
    have hread := memoryRead_write s.pwp.toNat a b hwf
    rw [← hpbuf] at hread
    by_cases ha : a = s.pwp.toNat
    · exact ⟨ha, w, ws, b, hcmds, hd, hread.trans (if_pos ha)⟩
    · exact absurd (hread.trans (if_neg ha)) hne

end Sys2Proof.Machine
end

section
/-! The invariant (10_state R26 to R29, 20_memory R62, 60_exceptions R240 to R249): split into what it says of the
buffer, of STAT, and of the fields that the pending event relies on; each is kept by its own kind of step. -/

namespace Sys2Proof.Machine

/-! ## The three parts of the invariant -/

/-- The buffer's part: `pwp` in range, canonical form, only indices that exist (R26, R50). -/
structure BufferInv (s : State) : Prop where
  pwp_le : s.pwp.toNat ≤ s.pbufSize.val
  wf : memoryWf s.pbuf = true
  listed : ∀ (k : Nat) (v : Byte), (k, v) ∈ s.pbuf → k < s.pbufSize.val

/-- STAT's part: a value that the rules can produce (R78, R240, R242). -/
structure StatInv (v : BitVec 11) : Prop where
  kind_made : (statKind v).toNat ≤ 0x82
  alert_device : statAlert v = true → isDeviceKind (statKind v) = true
  cmderr_alone : statCmderr v = true → v = 0x400#11

/-- The phase's part: what the pending event relies on (R29, R62, R63, R164, R181, R187). -/
def PhaseInv (s : State) : Prop :=
  match s.ph with
  | .idle => StatInv s.stat ∧ s.skip = false
  | .pRaw => s.stat = 0#11 ∧ s.rem ≠ 0x0000#16
  | .pOut => s.stat = 0#11 ∧ s.skip = false ∧ ∃ u, s.trace = u ++ [.pull s.held]
  | .aPar => s.stat = 0#11 ∧ s.skip = false ∧ s.idx.toNat < s.pwp.toNat
  | .aStf => s.stat = 0#11 ∧ s.skip = false ∧ s.idx.toNat ≤ s.pwp.toNat
  | .aC0 | .aC1 => s.stat = 0#11 ∧ s.skip = false ∧ s.idx = s.pwp
  | .aH0 | .aH1 | .aH2 | .aH3 | .aId | .aL0 | .aL1 | .aInst => s.stat = 0#11 ∧ s.skip = false
  | .hRx | .pId | .pL0 | .pL1 | .pInst | .pErr | .pC0 | .pC1 => s.stat = 0#11 ∧ s.skip = false

theorem StatInv.zero : StatInv 0#11 := ⟨by decide, by decide, by decide⟩
theorem StatInv.matched : StatInv 0x200#11 := ⟨by decide, by decide, by decide⟩
theorem StatInv.refused : StatInv 0x400#11 := ⟨by decide, by decide, by decide⟩

theorem Inv.buffer {s : State} (h : Inv s) : BufferInv s := ⟨h.pwp_le, h.pbuf_wf, h.pbuf_in⟩

theorem Inv.stat {s : State} (h : Inv s) : StatInv s.stat := ⟨h.kind_made, h.alert_device, h.cmderr_alone⟩

theorem Inv.skip_eq_false {s : State} (h : Inv s) (hph : s.ph ≠ .pRaw) : s.skip = false := by
  cases hskip : s.skip with
  | false => rfl
  | true => exact absurd (h.skip_raw hskip) hph

theorem Inv.phase {s : State} (h : Inv s) : PhaseInv s := by
  have busy := h.busy_stat
  have skip := h.skip_eq_false
  have raw := h.raw_left
  have param := h.param_left
  have stuffing := h.stuff_idx
  have crc := h.crc_idx
  have out := h.out_held
  have stat := h.stat
  unfold PhaseInv
  cases hph : s.ph <;> simp_all

theorem PhaseInv.stat {s : State} (h : PhaseInv s) : StatInv s.stat := by
  unfold PhaseInv at h
  have zero := StatInv.zero
  cases hph : s.ph <;> simp_all

/-- The invariant is its three parts. -/
theorem inv_iff {s : State} : Inv s ↔ BufferInv s ∧ PhaseInv s := by
  refine ⟨fun h => ⟨h.buffer, h.phase⟩, fun ⟨hbuffer, hphase⟩ => ?_⟩
  have hstat := hphase.stat
  unfold PhaseInv at hphase
  constructor
  · exact hbuffer.pwp_le
  · exact hbuffer.wf
  · exact hbuffer.listed
  · exact hstat.kind_made
  · exact hstat.alert_device
  · exact hstat.cmderr_alone
  all_goals cases hph : s.ph <;> simp_all

theorem phaseInv_of_idle {s : State} (hidle : s.ph = .idle) (hstat : StatInv s.stat) (hskip : s.skip = false) :
    PhaseInv s := by
  simp [PhaseInv, hidle, hstat, hskip]

/-! ## The buffer's part -/

theorem BufferInv.congr {s t : State} (h : BufferInv s) (hpbuf : t.pbuf = s.pbuf) (hpwp : t.pwp = s.pwp)
    (hsize : t.pbufSize = s.pbufSize) : BufferInv t :=
  ⟨by rw [hpwp, hsize]; exact h.pwp_le, by rw [hpbuf]; exact h.wf, by rw [hpbuf, hsize]; exact h.listed⟩

theorem BufferInv.pushByte {s : State} (h : BufferInv s) (hroom : s.pwp.toNat < s.pbufSize.val) (b : Byte) :
    BufferInv (pushByte s b) := by
  refine ⟨?_, pushByte_pbuf_wf h.wf b, fun k v hmem => ?_⟩
  · rw [pushByte_pwp_toNat hroom]
    exact hroom
  · rcases mem_memoryWrite hmem with hnew | hold
    · cases hnew
      exact hroom
    · exact h.listed k v hold

theorem BufferInv.accepted {i : Instr} {s t : State} (hs : BufferInv s) (h : Accepted s i t) : BufferInv t := by
  cases h with
  | pbClr => exact ⟨Nat.zero_le _, hs.wf, hs.listed⟩
  | pbPush b hroom => exact hs.pushByte hroom b
  | _ => exact hs.congr rfl rfl rfl

theorem BufferInv.portEvent {s t : State} (hs : BufferInv s) (h : PortEffect s t) : BufferInv t :=
  hs.congr h.pbuf h.pwp h.pbufSize

/-! ## STAT's part -/

/-- STAT at the end of a PARSE. -/
theorem statInv_report {k : Byte} {a : Bool} (hk : k.toNat ≤ 0x82) (ha : a = true → isDeviceKind k = true) :
    StatInv (setAlert (setKind 0#11 k) a) :=
  ⟨by simpa using hk, by simpa using ha, by simp⟩

theorem isDeviceKind_errKind {e : Byte} (h : errKind e ≠ 0x00#8) : isDeviceKind (errKind e) = true := by
  have below := errKind_lt e
  have nonzero : (errKind e).toNat ≠ 0 := fun hzero => h (BitVec.eq_of_toNat_eq hzero)
  simp only [isDeviceKind, Bool.and_eq_true, decide_eq_true_eq]
  omega

theorem kindCode_le (k : LocalKind) : (kindCode k).toNat ≤ 0x82 := by cases k <;> decide

theorem Accepted.statInv {i : Instr} {s t : State} (h : Accepted s i t) : StatInv t.stat := by
  rcases h.stat with hstat | ⟨hstat, -⟩ | ⟨hstat, -, -⟩ <;> rw [hstat]
  · exact .zero
  · exact .matched
  · exact .refused

/-! ## The phase's part, operation by operation -/

section
variable {s : State} (hstat : s.stat = 0#11)
include hstat

theorem phaseInv_fail (k : LocalKind) : PhaseInv (fail k s) := by
  refine phaseInv_of_idle rfl ?_ rfl
  rw [fail_stat, hstat]
  exact statInv_report (kindCode_le k) (fun h => nomatch h)

theorem phaseInv_rawLoop : PhaseInv (rawLoop s) := by
  rcases rawLoop_eq s with ⟨-, h⟩ | ⟨hrem, h⟩ <;> rw [h]
  · simp [PhaseInv, hstat]
  · simp [PhaseInv, hstat, hrem]

theorem phaseInv_checkHead : PhaseInv (checkHead s) := by
  rcases checkHead_eq s with ⟨-, h⟩ | ⟨-, -, h⟩ | ⟨-, -, -, -, h⟩ | ⟨-, -, -, h⟩ <;> rw [h]
  · exact phaseInv_fail hstat _
  · exact phaseInv_fail hstat _
  · exact phaseInv_fail hstat _
  · exact phaseInv_rawLoop hstat

theorem phaseInv_sendLogical : PhaseInv (sendLogical s) := phaseInv_rawLoop hstat

/-- The byte held for `P_OUT` is the one just pulled (R63). -/
theorem phaseInv_recvRaw {b : Byte} (hpulled : ∃ u, s.trace = u ++ [.pull b]) : PhaseInv (recvRaw b s) := by
  rcases recvRaw_eq b s with ⟨-, h⟩ | ⟨hskip, h⟩ <;> rw [h]
  · exact phaseInv_rawLoop hstat
  · simp [PhaseInv, hstat, hskip, hpulled]

variable (hskip : s.skip = false)
include hskip

theorem phaseInv_verdict : PhaseInv (verdict s) := by
  rcases verdict_eq s with ⟨-, h⟩ | ⟨-, hkind, h⟩ | ⟨-, -, h⟩ <;> rw [h]
  · exact phaseInv_fail hstat _
  · refine phaseInv_of_idle rfl ?_ rfl
    rw [reportDevice_stat, hstat]
    exact statInv_report ((errKind_lt _).le.trans (by decide)) fun _ => isDeviceKind_errKind hkind
  · refine phaseInv_of_idle rfl ?_ hskip
    rw [reportOk_stat, hstat, setKind_zero_zero]
    exact .zero

theorem phaseInv_huntByte (hph : s.ph = .hRx) (b : Byte) : PhaseInv (huntByte b s) := by
  rcases huntByte_eq b s with ⟨-, h⟩ | ⟨-, h⟩ <;> rw [h]
  · refine phaseInv_of_idle rfl ?_ hskip
    simp only [hstat, setMatch_zero_true]
    exact .matched
  · simp [PhaseInv, hph, hstat, hskip]

theorem phaseInv_paramLoop (hidx : s.idx.toNat ≤ s.pwp.toNat) : PhaseInv (paramLoop s) := by
  rcases paramLoop_eq s with ⟨hlt, h⟩ | ⟨hge, h⟩ <;> rw [h]
  · have hlt' : s.idx.toNat < s.pwp.toNat := hlt
    simp [PhaseInv, hstat, hskip, hlt']
  · have hend : s.idx = s.pwp := by bv_omega
    simp [PhaseInv, hstat, hskip, hend]

theorem phaseInv_sendInst (b : Byte) : PhaseInv (sendInst b s) :=
  phaseInv_paramLoop (s := { sendByte b s with s3 := 0, idx := 0x0000#16 }) hstat hskip (Nat.zero_le _)

theorem phaseInv_sendParam (hidx : s.idx.toNat < s.pwp.toNat) (b : Byte) : PhaseInv (sendParam b s) := by
  have hnext : (s.idx + 1).toNat ≤ s.pwp.toNat := by bv_omega
  rcases sendParam_eq b s with ⟨-, h⟩ | ⟨-, h⟩ <;> rw [h]
  · simpa [PhaseInv, hstat, hskip] using hnext
  · exact phaseInv_paramLoop hstat hskip hnext

end

/-- A pull that waits changes nothing. -/
theorem phaseInv_pullThen {s : State} {k : Byte → State → State} (hs : PhaseInv s)
    (hk : ∀ b bs, PhaseInv (k b (pulled b bs s))) : PhaseInv (pullThen k s) := by
  rcases pullThen_cases k s with ⟨-, h⟩ | ⟨b, bs, -, h⟩ <;> rw [h]
  · exact hs
  · exact hk b bs

/-- Every port event leaves what the next one relies on, phase by phase. -/
theorem phaseInv_portEvent {s t : State} (hs : PhaseInv s) (h : portEvent s = .next t) : PhaseInv t := by
  have hfields := hs
  cases hph : s.ph <;> simp only [portEvent, hph] at h <;> simp only [PhaseInv, hph] at hfields
  case aPar =>
    obtain ⟨-, rfl⟩ := asmParam_eq_next.mp h
    obtain ⟨hstat, hskip, hidx⟩ := hfields
    exact phaseInv_sendParam hstat hskip hidx _
  all_goals obtain rfl := Host.Outcome.next.inj h
  case idle => exact hs
  case aH0 | aH1 | aH2 | aH3 | aId | aL0 | aL1 => exact hfields
  case aInst => exact phaseInv_sendInst hfields.1 hfields.2 _
  case aStf => exact phaseInv_paramLoop (s := sendByte stuffByte s) hfields.1 hfields.2.1 hfields.2.2
  case aC0 => exact hfields
  case aC1 => exact phaseInv_of_idle rfl hs.stat hfields.2.1
  case hRx => exact phaseInv_pullThen hs fun b bs => phaseInv_huntByte (s := pulled b bs s) hfields.1 hfields.2 hph b
  case pId | pL0 | pL1 | pInst | pC0 => exact phaseInv_pullThen hs fun b bs => hfields
  case pErr => exact phaseInv_pullThen hs fun b bs => phaseInv_checkHead hfields.1
  case pRaw => exact phaseInv_pullThen hs fun b bs => phaseInv_recvRaw (s := pulled b bs s) hfields.1 ⟨s.trace, rfl⟩
  case pOut => exact phaseInv_sendLogical hfields.1
  case pC1 => exact phaseInv_pullThen hs fun b bs => phaseInv_verdict hfields.1 hfields.2

theorem Accepted.phaseInv {i : Instr} {s t : State} (h : Accepted s i t) (hidle : s.ph = .idle)
    (hskip : s.skip = false) : PhaseInv t := by
  have hstat := h.statInv
  cases h with
  | asm | hunt | parse => simp [PhaseInv, startAsm, startParse, hskip]
  | _ => exact phaseInv_of_idle hidle hstat hskip

/-! ## The obligations -/

theorem inv_dropTurn {s : State} (h : Inv s) : Inv (dropTurn s) :=
  inv_iff.mpr ⟨h.buffer.congr rfl rfl rfl, h.phase⟩

theorem inv_acceptWord {s : State} (h : Inv s) (ws : List Word) : Inv (acceptWord ws s) :=
  inv_iff.mpr ⟨h.buffer.congr rfl rfl rfl, h.phase⟩

/-- A refusal at idle leaves nothing but `cmderr` in STAT. -/
theorem inv_refuse {s : State} (h : Inv s) (hidle : s.ph = .idle) : Inv (refuse s) :=
  inv_iff.mpr ⟨h.buffer.congr rfl rfl rfl,
    phaseInv_of_idle hidle .refused (h.skip_eq_false (by rw [hidle]; decide))⟩

theorem inv_accepted {i : Instr} {s t : State} (hs : Inv s) (hidle : s.ph = .idle) (h : Accepted s i t) : Inv t :=
  inv_iff.mpr ⟨hs.buffer.accepted h, h.phaseInv hidle (hs.skip_eq_false (by rw [hidle]; decide))⟩

theorem inv_portEvent {s t : State} (hs : Inv s) (h : portEvent s = .next t) : Inv t :=
  inv_iff.mpr ⟨hs.buffer.portEvent (portEffect_of_portEvent h), phaseInv_portEvent hs.phase h⟩

theorem inv_resetBlock (s : State) : Inv (resetBlock s) :=
  inv_iff.mpr ⟨⟨Nat.zero_le _, rfl, fun _ _ h => nomatch h⟩, phaseInv_of_idle rfl .zero rfl⟩

/-- Settles O44: reset gives the reset state from itself. -/
theorem resetSatisfiesInv : Obligations.ResetSatisfiesInv := inv_resetBlock State.reset

/-- Settles O45: each effect of a step keeps the invariant. -/
theorem stepKeepsInv : Obligations.StepKeepsInv := by
  unfold Obligations.StepKeepsInv
  intro s t hs h
  have hdrop := inv_dropTurn hs
  cases step_effect h with
  | waited _ ht | idled _ _ _ ht => exact ht ▸ hdrop
  | reset _ ht => exact ht ▸ inv_resetBlock _
  | accepted _ hidle _ _ haccepted => exact inv_accepted (inv_acceptWord hdrop _) hidle haccepted
  | refused _ hidle _ _ ht => exact ht ▸ inv_refuse (inv_acceptWord hdrop _) hidle
  | event _ _ hevent => exact inv_portEvent hdrop hevent

/-- A port event has a next state: `A_PAR`, the one that could fault, reads below `pwp`. -/
theorem exists_portEvent {s : State} (hs : Inv s) : ∃ t, portEvent s = .next t := by
  cases hph : s.ph <;> simp only [portEvent, hph]
  case aPar => exact ⟨_, asmParam_eq_next.mpr ⟨(hs.param_left hph).trans_le hs.pwp_le, rfl⟩⟩
  all_goals exact ⟨_, rfl⟩

theorem exists_exec {s : State} (hs : Inv s) (i : Instr) : ∃ t, exec i s = .next t := by
  cases hi : isCommand i with
  | true =>
    by_cases hidle : s.ph = .idle
    · rcases exists_accepted_or_fault hi hidle with ⟨t, ht⟩ | ⟨hparams, -⟩
      · exact ⟨t, exec_of_accepted hidle ht⟩
      · exact absurd hs.pwp_le (params_eq_none.mp hparams).not_ge
    · exact ⟨s, exec_of_busy hi hidle⟩
  | false =>
    obtain ⟨b, hb⟩ := exists_tag_of_not_command hi
    exact ⟨_, exec_of_tag hb s⟩

/-- Settles O46: the parameter sequence is in range for acceptance, and `A_PAR` reads below `pwp`. -/
theorem invNeverStops : Obligations.InvNeverStops := by
  unfold Obligations.InvNeverStops
  refine fun s hs => ⟨?_, exists_exec hs⟩
  have hdrop := inv_dropTurn hs
  rcases step_cases s with ⟨-, hstep⟩ | ⟨-, hstep⟩ | ⟨-, hstep⟩ <;> rw [hstep]
  · by_cases hidle : (dropTurn s).ph = .idle
    · rcases engine_idle hidle with ⟨-, he⟩ | ⟨w, ws, i, -, -, he⟩ | ⟨w, ws, why, -, -, he⟩ <;> rw [he]
      · exact ⟨_, rfl⟩
      · exact exists_exec (inv_acceptWord hdrop ws) i
      · exact ⟨_, rfl⟩
    · rw [engine_busy hidle]
      exact exists_portEvent hdrop
  · exact ⟨_, rfl⟩
  · exact ⟨_, rfl⟩

/-- Settles O34: acceptance sets `cmderr` for a push on a full buffer alone; a port event leaves it as it is, and STAT
was 0 while the operation ran. -/
theorem cmderrMarksRefusalsOnly : Obligations.CmderrMarksRefusalsOnly := by
  unfold Obligations.CmderrMarksRefusalsOnly
  intro s t hs h hcmderr
  cases step_effect h with
  | waited _ ht | idled _ _ _ ht => rw [ht]; exact .inl rfl
  | reset _ ht => rw [ht, resetBlock_stat] at hcmderr; exact absurd hcmderr (by decide)
  | accepted _ hidle hcmds hd haccepted =>
    rcases haccepted.stat with hstat | ⟨hstat, -⟩ | ⟨-, ⟨b, rfl⟩, hfull⟩
    · rw [hstat] at hcmderr; exact absurd hcmderr (by decide)
    · rw [hstat] at hcmderr; exact absurd hcmderr (by decide)
    · exact .inr ⟨hidle, _, _, hcmds, .inr ⟨⟨b, hd⟩, hfull⟩⟩
  | refused _ hidle hcmds hd => exact .inr ⟨hidle, _, _, hcmds, .inl ⟨_, hd⟩⟩
  | event _ hbusy hevent =>
    rw [(portEffect_of_portEvent hevent).cmderr, dropTurn_stat, hs.busy_stat hbusy] at hcmderr
    exact absurd hcmderr (by decide)

end Sys2Proof.Machine
end

section
/-! What the bytes of `pbuf` at and above `pwp` cannot do (10_state R27, 93_implementation_defined U1): a step of the
same block with another buffer, equal below `pwp`, is the same step. -/

namespace Sys2Proof.Machine

/-- The same block with the buffer `m`. -/
def withPbuf (m : Memory) (s : State) : State := { s with pbuf := m }

/-! ## The operations of port events do not look at the buffer -/

section
variable (m : Memory) (s : State)

theorem rawLoop_withPbuf : rawLoop (withPbuf m s) = withPbuf m (rawLoop s) := by
  unfold rawLoop
  change (if s.rem = 0x0000#16 then _ else _) = _
  split <;> rfl

theorem checkHead_withPbuf : checkHead (withPbuf m s) = withPbuf m (checkHead s) := by
  unfold checkHead
  change (if s.rinst ≠ statusMarker then _ else if s.rlen < statusOverhead then _
    else if s.opCe = true ∧ s.rlen - statusOverhead ≠ s.opCap then _ else _) = _
  split
  · rfl
  · split
    · rfl
    · dsimp only
      split
      · rfl
      · exact rawLoop_withPbuf m { s with rem := s.rlen - statusOverhead }

theorem verdict_withPbuf : verdict (withPbuf m s) = withPbuf m (verdict s) := by
  unfold verdict
  change (if s.rcrc ≠ s.crc then _ else if errKind s.rerr ≠ 0x00#8 then _ else _) = _
  split
  · rfl
  · split <;> rfl

theorem huntByte_withPbuf (b : Byte) : huntByte b (withPbuf m s) = withPbuf m (huntByte b s) := by
  unfold huntByte
  change (if (feed 4 s.s4 b).2 = true then _ else _) = _
  split <;> rfl

theorem sendParam_withPbuf (b : Byte) : sendParam b (withPbuf m s) = withPbuf m (sendParam b s) := by
  unfold sendParam
  change (if (feed 3 s.s3 b).2 = true then _ else _) = _
  dsimp only
  split <;> rfl

theorem recvRaw_withPbuf (b : Byte) : recvRaw b (withPbuf m s) = withPbuf m (recvRaw b s) := by
  unfold recvRaw
  change (if s.skip = true then _ else _) = _
  dsimp only
  split
  · exact rawLoop_withPbuf m { s with crc := adv s.crc b, rem := s.rem - 1, skip := false }
  · rfl

theorem sendLogical_withPbuf : sendLogical (withPbuf m s) = withPbuf m (sendLogical s) :=
  rawLoop_withPbuf m { pushPo s.held s with
    nlog := s.nlog + 1, s3 := (feed 3 s.s3 s.held).1, skip := (feed 3 s.s3 s.held).2 }

theorem pullThen_withPbuf {k : Byte → State → State} (hk : ∀ b u, k b (withPbuf m u) = withPbuf m (k b u)) :
    pullThen k (withPbuf m s) = withPbuf m (pullThen k s) := by
  have hrx : (withPbuf m s).rx = s.rx := rfl
  cases h : s.rx with
  | nil => simp only [pullThen, hrx, h]
  | cons b bs =>
    simp only [pullThen, hrx, h]
    exact hk b (pulled b bs s)

/-- A port event is the same with another buffer, if that reads the same where ASM reads it. -/
theorem portEvent_withPbuf {s t : State} (h : portEvent s = .next t)
    (hread : s.ph = .aPar → memoryRead m s.idx.toNat = memoryRead s.pbuf s.idx.toNat) :
    portEvent (withPbuf m s) = .next (withPbuf m t) := by
  have hph' : (withPbuf m s).ph = s.ph := rfl
  cases hph : s.ph <;> simp only [portEvent, hph] at h <;> simp only [portEvent, hph', hph]
  case aPar =>
    obtain ⟨in_range, rfl⟩ := asmParam_eq_next.mp h
    refine asmParam_eq_next.mpr ⟨in_range, ?_⟩
    rw [← sendParam_withPbuf, ← hread hph]
    rfl
  all_goals obtain rfl := Host.Outcome.next.inj h
  case idle | aH0 | aH1 | aH2 | aH3 | aId | aL0 | aL1 | aInst | aStf | aC0 | aC1 => rfl
  case hRx => rw [pullThen_withPbuf m s fun b u => huntByte_withPbuf m u b]
  case pId | pL0 | pL1 | pInst | pC0 => exact congrArg _ (pullThen_withPbuf m s fun b u => rfl)
  case pErr => rw [pullThen_withPbuf m s fun b u => checkHead_withPbuf m { u with rerr := b, crc := adv u.crc b }]
  case pRaw => rw [pullThen_withPbuf m s fun b u => recvRaw_withPbuf m u b]
  case pOut => rw [sendLogical_withPbuf]
  case pC1 => rw [pullThen_withPbuf m s fun b u => verdict_withPbuf m { u with rcrc := setHi u.rcrc b }]

end

/-! ## Commands use the buffer below `pwp` only -/

theorem agree_withPbuf {m : Memory} {s : State} (hwf : memoryWf s.pbuf = true) (hm : memoryWf m = true)
    (hread : ∀ a < s.pwp.toNat, memoryRead s.pbuf a = memoryRead m a) : AgreeBelowPwp s (withPbuf m s) :=
  ⟨hwf, hm, rfl, hread⟩

theorem params_withPbuf {m : Memory} {s : State} {p : List Byte}
    (hread : ∀ a < s.pwp.toNat, memoryRead s.pbuf a = memoryRead m a) (hp : params s = some p) :
    params (withPbuf m s) = some p := by
  obtain ⟨hpwp, rfl⟩ := params_eq_some.mp hp
  refine params_eq_some.mpr ⟨hpwp, ?_⟩
  exact List.map_congr_left fun a ha => hread a (List.mem_range.mp ha)

/-- A command accepted with another buffer, equal below `pwp`, leaves a state that agrees again. -/
theorem Accepted.agree {i : Instr} {m : Memory} {s s' : State} (h : Accepted s i s') (hwf : memoryWf s.pbuf = true)
    (hm : memoryWf m = true) (hread : ∀ a < s.pwp.toNat, memoryRead s.pbuf a = memoryRead m a) :
    ∃ t', Accepted (withPbuf m s) i t' ∧ AgreeBelowPwp s' t' := by
  cases h with
  | crcClr => exact ⟨_, .crcClr, agree_withPbuf hwf hm hread⟩
  | crcLd v => exact ⟨_, .crcLd v, agree_withPbuf hwf hm hread⟩
  | crcAdv b => exact ⟨_, .crcAdv b, agree_withPbuf hwf hm hread⟩
  | crcFold hp => exact ⟨_, .crcFold (params_withPbuf hread hp), agree_withPbuf hwf hm hread⟩
  | s3Clr => exact ⟨_, .s3Clr, agree_withPbuf hwf hm hread⟩
  | s3Feed b => exact ⟨_, .s3Feed b, agree_withPbuf hwf hm hread⟩
  | s4Clr => exact ⟨_, .s4Clr, agree_withPbuf hwf hm hread⟩
  | s4Feed b => exact ⟨_, .s4Feed b, agree_withPbuf hwf hm hread⟩
  | pbClr => exact ⟨_, .pbClr, agree_withPbuf hwf hm fun a ha => absurd ha (Nat.not_lt_zero a)⟩
  | pbPush b hroom =>
    refine ⟨_, .pbPush b hroom, memoryWf_write _ b hwf, memoryWf_write _ b hm, rfl, fun a ha => ?_⟩
    rw [pushByte_pwp_toNat hroom] at ha
    exact memoryRead_write_agree b hwf hm hread a ha
  | pbPushFull b hfull => exact ⟨_, .pbPushFull b hfull, agree_withPbuf hwf hm hread⟩
  | asm id inst hp => exact ⟨_, .asm id inst (params_withPbuf hread hp), agree_withPbuf hwf hm hread⟩
  | hunt => exact ⟨_, .hunt, agree_withPbuf hwf hm hread⟩
  | parse ce cap => exact ⟨_, .parse ce cap, agree_withPbuf hwf hm hread⟩

/-! ## The obligation -/

/-- Settles O47: by the effect of the first state's step; `A_PAR` reads at `idx`, which the invariant keeps below
`pwp`. -/
theorem unwrittenBytesAreUnobservable : Obligations.UnwrittenBytesAreUnobservable := by
  unfold Obligations.UnwrittenBytesAreUnobservable
  rintro s t s' hs ⟨hwf, hm, ht, hread⟩ h
  obtain ⟨m, rfl⟩ : ∃ m, t = withPbuf m s := ⟨t.pbuf, ht⟩
  change memoryWf m = true at hm
  change ∀ a < s.pwp.toNat, memoryRead s.pbuf a = memoryRead m a at hread
  cases step_effect h with
  | waited hturn hs' =>
    subst hs'
    exact ⟨_, step_of_wait (s := withPbuf m s) hturn, agree_withPbuf (s := dropTurn s) hwf hm hread⟩
  | reset hturn hs' =>
    subst hs'
    exact ⟨_, step_of_reset (s := withPbuf m s) hturn, rfl, rfl, rfl, fun _ _ => rfl⟩
  | idled hturn hidle hcmds hs' =>
    subst hs'
    refine ⟨withPbuf m (dropTurn s), ?_, agree_withPbuf (s := dropTurn s) hwf hm hread⟩
    rw [step_of_go (s := withPbuf m s) hturn]
    exact engine_of_no_word hidle hcmds
  | accepted hturn hidle hcmds hd haccepted =>
    obtain ⟨t', ht', hagree⟩ := haccepted.agree hwf hm hread
    refine ⟨t', ?_, hagree⟩
    rw [step_of_go (s := withPbuf m s) hturn, engine_of_instr (s := dropTurn (withPbuf m s)) hidle hcmds hd]
    exact exec_of_accepted hidle ht'
  | @refused hturn hidle w ws why hcmds hd hs' =>
    subst hs'
    refine ⟨_, ?_, agree_withPbuf (s := refuse (acceptWord ws (dropTurn s))) hwf hm hread⟩
    rw [step_of_go (s := withPbuf m s) hturn]
    exact engine_of_rejected (s := dropTurn (withPbuf m s)) hidle hcmds hd
  | event hturn hbusy hevent =>
    have effect := portEffect_of_portEvent hevent
    refine ⟨withPbuf m s', ?_, agree_withPbuf (by rw [effect.pbuf]; exact hwf) hm fun a ha => ?_⟩
    · rw [step_of_go (s := withPbuf m s) hturn, engine_busy (s := dropTurn (withPbuf m s)) hbusy]
      exact portEvent_withPbuf m hevent fun hph => (hread _ (hs.param_left hph)).symm
    · rw [effect.pwp] at ha
      rw [effect.pbuf]
      exact hread a ha

end Sys2Proof.Machine
end

section
/-! Runs of an environment that completes every event (20_memory R54, 41_sentry R129): steps one after another, waiting
for ever, and HUNT. -/

namespace Sys2Proof.Machine

/-! ## Runs -/

theorem runs_zero (s : State) : Runs 0 s s := rfl

theorem runs_succ_iff {n : Nat} {s t : State} : Runs (n + 1) s t ↔ ∃ u, step s = .next u ∧ Runs n u t := by
  have hcore : Sys2Proof.core.step s = step s := rfl
  simp only [Runs, Host.Core.run, hcore]
  cases step s with
  | next v => exact ⟨fun h => ⟨v, rfl, h⟩, fun ⟨w, hw, h⟩ => Host.Outcome.next.inj hw ▸ h⟩
  | fault r => exact ⟨nofun, fun ⟨_, hw, _⟩ => nomatch hw⟩
  | refused r => exact ⟨nofun, fun ⟨_, hw, _⟩ => nomatch hw⟩

theorem runs_one {s t : State} (hstep : step s = .next t) : Runs 1 s t := runs_succ_iff.mpr ⟨t, hstep, runs_zero t⟩

theorem Runs.trans {n m : Nat} {s t u : State} (hst : Runs n s t) (htu : Runs m t u) : Runs (n + m) s u := by
  induction n generalizing s with
  | zero =>
    obtain rfl : s = t := Host.Outcome.next.inj hst
    rwa [Nat.zero_add]
  | succ n ih =>
    obtain ⟨v, hstep, hvt⟩ := runs_succ_iff.mp hst
    rw [Nat.succ_add]
    exact runs_succ_iff.mpr ⟨v, hstep, ih hvt⟩

/-- A state that steps to itself stays. -/
theorem runs_of_fixed {s : State} (hstep : step s = .next s) : ∀ n, Runs n s s
  | 0 => runs_zero s
  | n + 1 => runs_succ_iff.mpr ⟨s, hstep, runs_of_fixed hstep n⟩

section
variable {n : Nat} {s t u : State} {k : Byte → State → State} {b : Byte} {bs : List Byte} (hu : Unhindered s)
include hu

theorem step_of_unhindered : step s = engine s := by
  obtain ⟨hturns, hrest⟩ := hu
  have hturn : s.turn = .go := by rw [State.turn, hturns, hrest]; rfl
  have hdrop : dropTurn s = s := by rw [dropTurn, hturns, List.tail_nil, ← hturns]
  rw [step_of_go hturn, hdrop]

/-- While an operation runs, a step is its port event. -/
theorem runs_event (hbusy : s.ph ≠ .idle) (h : portEvent s = .next t) : Runs 1 s t :=
  runs_one (by rw [step_of_unhindered hu, engine_busy hbusy, h])

/-- A pull with a byte supplied. -/
theorem runs_pull (hbusy : s.ph ≠ .idle) (h : portEvent s = .next (pullThen k s)) (hrx : s.rx = b :: bs) :
    Runs 1 s (k b (pulled b bs s)) :=
  runs_event hu hbusy (by rw [h, pullThen, hrx])

/-- A first port event, then more. -/
theorem runs_event_cons (hbusy : s.ph ≠ .idle) (h : portEvent s = .next t)
    (hrest : Runs n t u) : Runs (n + 1) s u :=
  runs_succ_iff.mpr ⟨t, by rw [step_of_unhindered hu, engine_busy hbusy, h], hrest⟩

/-- With nothing in RX a pull waits for ever (R54, R55). -/
theorem runs_waiting (hpull : isPullPhase s.ph = true) (hrx : s.rx = []) (n : Nat) : Runs n s s := by
  have hbusy : s.ph ≠ .idle := by rintro hidle; rw [hidle] at hpull; cases hpull
  have waits : portEvent s = .next s := by
    cases hph : s.ph <;> rw [hph] at hpull <;> cases hpull <;> simp only [portEvent, hph, pullThen, hrx]
  exact runs_of_fixed (by rw [step_of_unhindered hu, engine_busy hbusy, waits]) n

end

/-- Settles O37: the environment's wait takes its turn alone; a pull with RX empty steps to the same state. -/
theorem waitingChangesNothing : Obligations.WaitingChangesNothing := by
  unfold Obligations.WaitingChangesNothing
  exact ⟨fun s hturn => step_of_wait hturn, fun s n hu hpull hrx => runs_waiting hu hpull hrx n⟩

/-! ## HUNT -/

/-- HUNT at its pull, after pulling the bytes `bs` that complete no header and leaving `after` in RX. -/
def hunted (bs after : List Byte) (s : State) : State :=
  { s with s4 := feedAll 4 s.s4 bs, rx := after, trace := s.trace ++ pulls bs }

theorem hunted_cons (b : Byte) (bs after : List Byte) (s : State) :
    hunted (b :: bs) after s = hunted bs after (hunted [b] (bs ++ after) s) := by
  simp [hunted, pulls]

theorem runs_hRx {s : State} {b : Byte} {bs : List Byte} (hu : Unhindered s) (hph : s.ph = .hRx)
    (hrx : s.rx = b :: bs) : Runs 1 s (huntByte b (pulled b bs s)) :=
  runs_pull hu (by rw [hph]; decide) (by rw [portEvent, hph]) hrx

theorem sentryQuiet_cons {n : Nat} {c : Fin n} {b : Byte} {bs : List Byte} (h : sentryQuiet n c (b :: bs) = true) :
    (feed n c b).2 = false ∧ sentryQuiet n (feed n c b).1 bs = true := by
  simpa [sentryQuiet] using h

theorem runs_hunted {s : State} {bs after : List Byte} (hu : Unhindered s) (hph : s.ph = .hRx)
    (hquiet : sentryQuiet 4 s.s4 bs = true) (hrx : s.rx = bs ++ after) : Runs bs.length s (hunted bs after s) := by
  induction bs generalizing s with
  | nil =>
    have same : hunted [] after s = s := by simp [hunted, pulls, ← hrx.trans (List.nil_append _)]
    rw [same]
    exact runs_zero s
  | cons b bs ih =>
    obtain ⟨no_match, hrest⟩ := sentryQuiet_cons hquiet
    have first : Runs 1 s (huntByte b (pulled b (bs ++ after) s)) :=
      runs_hRx hu hph hrx
    have pulled_b : huntByte b (pulled b (bs ++ after) s) = hunted [b] (bs ++ after) s := by
      rcases huntByte_eq b (pulled b (bs ++ after) s) with ⟨hmatch, -⟩ | ⟨-, h⟩
      · exact absurd (hmatch.symm.trans no_match) (by decide)
      · exact h
    rw [pulled_b] at first
    rw [hunted_cons, List.length_cons, Nat.add_comm]
    exact first.trans (ih (s := hunted [b] (bs ++ after) s) hu hph hrest rfl)

/-- The byte that completes the header is pulled last, and ends HUNT. -/
theorem runs_hunt_match {s : State} {bs after : List Byte} {b : Byte} (hu : Unhindered s) (hph : s.ph = .hRx)
    (hstat : s.stat = 0#11) (hquiet : sentryQuiet 4 s.s4 bs = true) (hrx : s.rx = bs ++ b :: after)
    (hmatch : (feed 4 (feedAll 4 s.s4 bs) b).2 = true) :
    Runs (bs.length + 1) s { s with
      stat := 0x200#11, s4 := 0, rx := after, ph := .idle, trace := s.trace ++ pulls (bs ++ [b]) } := by
  have last : Runs 1 (hunted bs (b :: after) s) (huntByte b (pulled b after (hunted bs (b :: after) s))) :=
    runs_hRx (s := hunted bs (b :: after) s) hu hph rfl
  have ended : huntByte b (pulled b after (hunted bs (b :: after) s)) = { s with
      stat := 0x200#11, s4 := 0, rx := after, ph := .idle, trace := s.trace ++ pulls (bs ++ [b]) } := by
    have hzero : (feed 4 (feedAll 4 s.s4 bs) b).1 = 0 := Fin.ext (feed_match hmatch)
    rcases huntByte_eq b (pulled b after (hunted bs (b :: after) s)) with ⟨-, h⟩ | ⟨no_match, -⟩
    · rw [h]
      simp [hunted, pulls, hstat, hzero]
    · exact absurd (hmatch.symm.trans no_match) (by decide)
  rw [ended] at last
  exact (runs_hunted hu hph hquiet hrx).trans last

/-- Settles O50: the quiet bytes are pulled one by one; then a match, on a byte `00`, ends HUNT, or RX is empty. -/
theorem huntPullsThroughTheHeader : Obligations.HuntPullsThroughTheHeader := by
  unfold Obligations.HuntPullsThroughTheHeader
  intro s bs hu hidle hquiet
  refine ⟨_, exec_hunt_of_idle hidle, fun b after hrx hmatch => ⟨((feed_four_match_iff _ b).mp hmatch).2, ?_⟩,
    fun hrx n => ?_⟩
  · exact runs_hunt_match (s := { s with stat := 0#11, ph := .hRx }) hu rfl rfl hquiet hrx hmatch
  · have pulls_all := runs_hunted (s := { s with stat := 0#11, ph := .hRx }) (after := []) hu rfl hquiet
      (by rw [List.append_nil]; exact hrx)
    exact pulls_all.trans (runs_waiting (s := hunted bs [] { s with stat := 0#11, ph := .hRx }) hu rfl rfl n)

end Sys2Proof.Machine
end

section
/-! The pseudo-commands LOADP and CRC16 (30_encoding R93). -/

namespace Sys2Proof.Machine

/-! ## LOADP -/

section
variable (bs : List Byte) (s : State)

/-- Pushes write STAT, `pwp` and the buffer alone. -/
theorem foldl_pushByte_frame (hstat : s.stat = 0#11) : bs.foldl pushByte s =
    { s with stat := 0#11, pwp := s.pwp + BitVec.ofNat 16 bs.length, pbuf := (bs.foldl pushByte s).pbuf } := by
  induction bs generalizing s with
  | nil => simp [← hstat]
  | cons b bs ih =>
    have sum : s.pwp + 1 + BitVec.ofNat 16 bs.length = s.pwp + BitVec.ofNat 16 (bs.length + 1) := by
      rw [BitVec.ofNat_add]
      ac_rfl
    rw [List.length_cons, ← sum]
    exact ih (pushByte s b) rfl

end

theorem memoryWf_foldl_pushByte {bs : List Byte} {s : State} (hwf : memoryWf s.pbuf = true) :
    memoryWf (bs.foldl pushByte s).pbuf = true := by
  induction bs generalizing s with
  | nil => exact hwf
  | cons b bs ih => exact ih (pushByte_pbuf_wf hwf b)

/-- Pushes that fit leave every index above them as it is. -/
theorem memoryRead_foldl_pushByte {bs : List Byte} {s : State} (hwf : memoryWf s.pbuf = true)
    (hfit : s.pwp.toNat + bs.length ≤ s.pbufSize.val) {a : Nat} (ha : s.pwp.toNat + bs.length ≤ a) :
    memoryRead (bs.foldl pushByte s).pbuf a = memoryRead s.pbuf a := by
  induction bs generalizing s with
  | nil => rfl
  | cons b bs ih =>
    rw [List.length_cons] at hfit ha
    have hroom : s.pwp.toNat < s.pbufSize.val := by omega
    have hnext := pushByte_pwp_toNat hroom b
    rw [List.foldl_cons, ih (pushByte_pbuf_wf hwf b) (by rw [hnext, pushByte_pbufSize]; omega) (by rw [hnext]; omega),
      memoryRead_pushByte hwf, if_neg (by omega)]

/-- Settles O55: PB_CLR, then a run of pushes that fit. -/
theorem loadpFillsTheBuffer : Obligations.LoadpFillsTheBuffer := by
  unfold Obligations.LoadpFillsTheBuffer
  intro s bs hidle hwf hfit
  have hfit' : (clearParams s).pwp.toNat + bs.length ≤ (clearParams s).pbufSize.val := by simpa using hfit
  have hrun : execAll (Pseudo.loadp bs).expand s = .next (bs.foldl pushByte (clearParams s)) := by
    rw [Pseudo.expand, execAll_cons_of_next (exec_pbClr_of_idle hidle)]
    exact execAll_map_pbPush (s := clearParams s) hidle hfit'
  refine ⟨_, hrun, ?_, ?_, ?_, fun a ha => ?_⟩
  · simpa [clearParams] using foldl_pushByte_frame bs (clearParams s) rfl
  · exact params_foldl_pushByte (s := clearParams s) hwf (params_clearParams s) (by simpa using hfit)
  · exact memoryWf_foldl_pushByte (s := clearParams s) hwf
  · exact memoryRead_foldl_pushByte (s := clearParams s) hwf hfit' (by simpa using ha)

/-! ## CRC16 -/

theorem execAll_map_crcAdv {s : State} (bs : List Byte) (hidle : s.ph = .idle) (hstat : s.stat = 0#11) :
    execAll (bs.map .crcAdv) s = .next { s with stat := 0#11, crc := fold s.crc bs } := by
  induction bs generalizing s with
  | nil => rw [List.map_nil, execAll, fold_nil, ← hstat]
  | cons b bs ih =>
    rw [List.map_cons, execAll_cons_of_next (exec_crcAdv_of_idle hidle b),
      ih (s := { s with stat := 0#11, crc := adv s.crc b }) hidle rfl, fold_cons]

/-- Settles O56: CRC_CLR, then one CRC_ADV per byte. -/
theorem crc16FoldsFromZero : Obligations.Crc16FoldsFromZero := by
  unfold Obligations.Crc16FoldsFromZero
  intro s bs hidle
  rw [Pseudo.expand, execAll_cons_of_next (exec_crcClr_of_idle hidle)]
  exact execAll_map_crcAdv (s := { s with stat := 0#11, crc := 0x0000#16 }) bs hidle rfl

end Sys2Proof.Machine
end

section
/-! ASM from acceptance to idle (43_assemble R164 to R167): the head, the parameter loop with its stuffing bytes, the
CRC. -/

namespace Sys2Proof.Machine

/-- The bytes `bs` sent on TX and accumulated. -/
def sent (bs : List Byte) (s : State) : State :=
  { s with crc := fold s.crc bs, trace := s.trace ++ bs.map .pushTx }

/-! ## The Length does not wrap -/

theorem params_length_le {s : State} {p : List Byte} (hp : params s = some p) : p.length ≤ 49149 := by
  rw [← pwp_toNat_of_params hp]
  exact (params_eq_some.mp hp).1.trans (Nat.le_of_lt_succ s.pbufSize.isLt)

/-- A buffer of at most 49149 bytes has a Length of at most 65535 (R9, R166). -/
theorem frameLength_toNat {p : List Byte} (hp : p.length ≤ 49149) :
    (frameLength p).toNat = p.length + stuffCount p + 3 := by
  have bound := three_mul_stuffCount_le p
  rw [frameLength, BitVec.toNat_ofNat]
  exact Nat.mod_eq_of_lt (by omega)

/-! ## The head -/

/-- The eight bytes of a frame before its parameters (R80). -/
def frameHead (id inst : Byte) (p : List Byte) : List Byte :=
  header ++ [id, loByte (frameLength p), hiByte (frameLength p), inst]

/-- ASM before its parameter loop, the head sent. -/
def headSent (id inst : Byte) (p : List Byte) (s : State) : State :=
  { sent (frameHead id inst p) (startAsm id inst p s) with s3 := 0, idx := 0x0000#16 }

theorem runs_asm_head {s : State} (hu : Unhindered s) (id inst : Byte) (p : List Byte) :
    Runs 8 (startAsm id inst p s) (paramLoop (headSent id inst p s)) := by
  have pushes : Runs 8 (startAsm id inst p s) (sendInst inst (sendThen (hiByte (frameLength p)) .aInst
      (sendThen (loByte (frameLength p)) .aL1 (sendThen id .aL0 (sendThen (headerByte 3) .aId
        (sendThen (headerByte 2) .aH3 (sendThen (headerByte 1) .aH2 (sendThen (headerByte 0) .aH1
          (startAsm id inst p s))))))))) := by
    refine runs_event_cons hu nofun rfl ?_
    refine runs_event_cons hu nofun rfl ?_
    refine runs_event_cons hu nofun rfl ?_
    refine runs_event_cons hu nofun rfl ?_
    refine runs_event_cons hu nofun rfl ?_
    refine runs_event_cons hu nofun rfl ?_
    refine runs_event_cons hu nofun rfl ?_
    exact runs_event hu nofun rfl
  convert pushes using 1
  simp [sendInst, paramLoop, headSent, sent, frameHead, header, headerByte, startAsm, sendThen, sendByte, pushTx]

/-! ## The parameter loop -/

/-- A parameter byte sent, with its stuffing byte if the sentry matches. -/
def paramSent (b : Byte) (s : State) : State :=
  { sent (stuffFrom s.s3 [b]) s with s3 := (feed 3 s.s3 b).1, idx := s.idx + 1 }

theorem runs_aPar {s : State} (hu : Unhindered s) (hph : s.ph = .aPar) (hin : s.idx.toNat < s.pbufSize.val) :
    Runs (stuffFrom s.s3 [memoryRead s.pbuf s.idx.toNat]).length s
      (paramLoop (paramSent (memoryRead s.pbuf s.idx.toNat) s)) := by
  have hbusy : s.ph ≠ .idle := by rw [hph]; decide
  have event : portEvent s = .next (sendParam (memoryRead s.pbuf s.idx.toNat) s) := by
    rw [portEvent, hph]
    exact asmParam_eq_next.mpr ⟨hin, rfl⟩
  generalize memoryRead s.pbuf s.idx.toNat = b at event ⊢
  rcases sendParam_eq b s with ⟨hmatch, h⟩ | ⟨no_match, h⟩ <;> rw [h] at event
  · have chunk : stuffFrom s.s3 [b] = [b, stuffByte] := by simp [stuffFrom_cons, hmatch]
    have pushes := runs_event_cons (n := 1) hu hbusy event (runs_event hu nofun rfl)
    rw [paramSent, chunk]
    change Runs 2 s _
    convert pushes using 1
    simp [paramLoop, sent, sendByte, pushTx]
  · have chunk : stuffFrom s.s3 [b] = [b] := by simp [stuffFrom_cons, no_match]
    rw [paramSent, chunk]
    exact runs_event hu hbusy event

/-- ASM past its parameter loop, with the bytes `q` stuffed and sent. -/
def paramsSent (q : List Byte) (s : State) : State :=
  { sent (stuffFrom s.s3 q) s with s3 := feedAll 3 s.s3 q, idx := s.pwp, ph := .aC0 }

theorem paramsSent_cons (b : Byte) (q : List Byte) (s : State) :
    paramsSent (b :: q) s = paramsSent q (paramSent b s) := by
  have chunks : stuffFrom s.s3 (b :: q) = stuffFrom s.s3 [b] ++ stuffFrom (feed 3 s.s3 b).1 q :=
    stuffFrom_append s.s3 [b] q
  simp [paramsSent, paramSent, sent, chunks, fold_append]

/-- The byte of the buffer at `idx` is the first of those still to be sent. -/
theorem memoryRead_of_pbufBytes {m : Memory} {n : Nat} {pre q : List Byte} {b : Byte}
    (h : pbufBytes m n = pre ++ b :: q) : memoryRead m pre.length = b ∧ pre.length < n := by
  have hlen : n = pre.length + (q.length + 1) := by
    simpa using congrArg List.length h
  have hget : (pbufBytes m n)[pre.length]? = some b := by rw [h]; simp
  refine ⟨?_, by omega⟩
  simpa [pbufBytes, show pre.length < n by omega] using hget

/-- From `idx` the loop sends the rest of the buffer, stuffed. -/
theorem runs_params {s : State} {pre q : List Byte} (hu : Unhindered s) (hpwp : s.pwp.toNat ≤ s.pbufSize.val)
    (hidx : s.idx.toNat = pre.length) (hq : pbufBytes s.pbuf s.pwp.toNat = pre ++ q) :
    Runs (stuffFrom s.s3 q).length (paramLoop s) (paramsSent q s) := by
  induction q generalizing s pre with
  | nil =>
    have hend : s.idx = s.pwp := by
      apply BitVec.eq_of_toNat_eq
      rw [hidx, ← pbufBytes_length s.pbuf s.pwp.toNat, hq, List.append_nil]
    have done : paramLoop s = paramsSent [] s := by simp [paramLoop, paramsSent, sent, hend]
    rw [done]
    exact runs_zero _
  | cons b q ih =>
    obtain ⟨hread, hlt⟩ := memoryRead_of_pbufBytes hq
    rw [← hidx] at hread hlt
    have enter : paramLoop s = { s with ph := .aPar } := by rw [paramLoop, if_pos (show s.idx < s.pwp from hlt)]
    have first := runs_aPar (s := { s with ph := .aPar }) hu rfl (hlt.trans_le hpwp)
    simp only [hread] at first
    have hnext : (paramSent b s).idx.toNat = (pre ++ [b]).length := by
      have step : (s.idx + 1).toNat = s.idx.toNat + 1 := by bv_omega
      rw [List.length_append, List.length_singleton, ← hidx]
      exact step
    have rest := ih (s := paramSent b s) (pre := pre ++ [b]) hu hpwp hnext (by rw [List.append_assoc]; exact hq)
    have chunks : stuffFrom s.s3 (b :: q) = stuffFrom s.s3 [b] ++ stuffFrom (feed 3 s.s3 b).1 q :=
      stuffFrom_append s.s3 [b] q
    rw [enter, paramsSent_cons, chunks, List.length_append]
    exact first.trans rest

/-! ## The whole frame -/

/-- ASM at its end, the CRC field sent. -/
def crcSent (s : State) : State :=
  { s with trace := s.trace ++ [.pushTx (loByte s.crc), .pushTx (hiByte s.crc)], ph := .idle }

theorem runs_asm_crc {s : State} (hu : Unhindered s) (hph : s.ph = .aC0) : Runs 2 s (crcSent s) := by
  have hbusy : s.ph ≠ .idle := by rw [hph]; decide
  have low : portEvent s = .next { pushTx (loByte s.crc) s with ph := .aC1 } := by simp only [portEvent, hph]
  have pushes := runs_event_cons (n := 1) hu hbusy low (runs_event hu nofun rfl)
  convert pushes using 1
  simp [crcSent, pushTx]

/-- The state that R167 gives after ASM. -/
def asmDone (id inst : Byte) (p : List Byte) (s : State) : State :=
  { s with
    stat := 0#11, crc := frameCrc id inst p, alen := frameLength p, idx := s.pwp, s3 := feedAll 3 0 p,
    opId := id, opInst := inst, ph := .idle, trace := s.trace ++ (instrFrame id inst p).map .pushTx }

theorem crcSent_paramsSent_headSent (id inst : Byte) (p : List Byte) (s : State) :
    crcSent (paramsSent p (headSent id inst p s)) = asmDone id inst p s := by
  have body : fold 0x0000#16 (frameHead id inst p ++ stuffFrom 0 p) = frameCrc id inst p := rfl
  have frame : instrFrame id inst p = frameHead id inst p ++ stuffFrom 0 p ++
    [loByte (frameCrc id inst p), hiByte (frameCrc id inst p)] := rfl
  simp only [crcSent, paramsSent, headSent, sent, startAsm, asmDone, ← fold_append, body, frame, List.map_append,
    List.append_assoc, List.map_cons, List.map_nil]

/-- From acceptance to idle, ASM sends its frame. -/
theorem runs_asm {s : State} {p : List Byte} (hu : Unhindered s) (hp : params s = some p) (id inst : Byte) :
    Runs (7 + (frameLength p).toNat) (startAsm id inst p s) (asmDone id inst p s) := by
  obtain ⟨hpwp, hbytes⟩ := params_eq_some.mp hp
  have body : Runs (stuff p).length (paramLoop (headSent id inst p s)) (paramsSent p (headSent id inst p s)) :=
    runs_params (s := headSent id inst p s) (pre := []) hu hpwp rfl hbytes.symm
  have crc := runs_asm_crc (s := paramsSent p (headSent id inst p s)) hu rfl
  have count : 7 + (frameLength p).toNat = 8 + (stuff p).length + 2 := by
    rw [frameLength_toNat (params_length_le hp), length_stuff]
    omega
  rw [count, ← crcSent_paramsSent_headSent]
  exact ((runs_asm_head hu id inst p).trans body).trans crc

/-- Settles O49: the head, the stuffed parameters and the CRC field, one after another, are the frame. -/
theorem asmSendsTheFrame : Obligations.AsmSendsTheFrame := by
  unfold Obligations.AsmSendsTheFrame
  intro s id inst p hu hidle hp
  exact ⟨frameLength_toNat (params_length_le hp), _, exec_asm_of_idle hidle hp id inst, runs_asm hu hp id inst⟩

end Sys2Proof.Machine
end

section
/-! PARSE from acceptance to idle (44_parse R181 to R192): the head and its checks, the raw bytes, the CRC and the
verdict. -/

namespace Sys2Proof.Machine

/-- A pull of a byte that is supplied, then more. -/
theorem runs_pull_cons {n : Nat} {s u : State} {k : Byte → State → State} {b : Byte} {bs : List Byte}
    (hu : Unhindered s) (hbusy : s.ph ≠ .idle) (h : portEvent s = .next (pullThen k s)) (hrx : s.rx = b :: bs)
    (hrest : Runs n (k b (pulled b bs s)) u) : Runs (n + 1) s u :=
  runs_event_cons hu hbusy (by rw [h, pullThen, hrx]) hrest

/-! ## The head -/

/-- A register loaded low byte first holds the two bytes. -/
theorem setHi_setLo (v : Half) (c0 c1 : Byte) : setHi (setLo v c0) c1 = c1 ++ c0 := by
  rw [setHi, setLo, loByte_append]

/-- PARSE with its five head bytes read, before it checks them. -/
def headRead (ce : Bool) (cap : Half) (id : Byte) (len : Half) (inst err : Byte) (after : List Byte) (s : State) :
    State :=
  { startParse ce cap s with
    rid := id, rlen := len, rinst := inst, rerr := err, crc := parseCrc (headBytes id len inst err), rx := after,
    trace := s.trace ++ pulls (headBytes id len inst err), ph := .pErr }

theorem runs_parse_head {s : State} {len : Half} {id inst err : Byte} {after : List Byte} (hu : Unhindered s)
    (ce : Bool) (cap : Half) (hrx : s.rx = headBytes id len inst err ++ after) :
    Runs 5 (startParse ce cap s) (checkHead (headRead ce cap id len inst err after s)) := by
  have events : Runs 5 (startParse ce cap s) (recvErr err (pulled err after (recvInst inst (pulled inst (err :: after)
      (recvL1 (hiByte len) (pulled (hiByte len) (inst :: err :: after)
        (recvL0 (loByte len) (pulled (loByte len) (hiByte len :: inst :: err :: after)
          (recvId id (pulled id (loByte len :: hiByte len :: inst :: err :: after) (startParse ce cap s))))))))))) := by
    refine runs_pull_cons hu nofun rfl hrx ?_
    refine runs_pull_cons hu nofun rfl rfl ?_
    refine runs_pull_cons hu nofun rfl rfl ?_
    refine runs_pull_cons hu nofun rfl rfl ?_
    exact runs_pull hu nofun rfl rfl
  convert events using 1
  simp [headRead, startParse, recvErr, recvInst, recvL1, recvL0, recvId, pulled, headBytes, parseCrc, pulls,
    setHi_setLo, hiByte_append_loByte]

/-! ## The checks of the head -/

theorem lt_statusOverhead_iff {v : Half} : v < statusOverhead ↔ v.toNat < 4 := Iff.rfl

section
variable {s : State}

theorem checkHead_of_not_status (hinst : s.rinst ≠ statusMarker) : checkHead s = fail .notStatus s := if_pos hinst

theorem checkHead_of_short (hinst : s.rinst = statusMarker) (hlen : s.rlen.toNat < 4) :
    checkHead s = fail .badLength s := by
  rcases checkHead_eq s with ⟨h, -⟩ | ⟨-, -, h⟩ | ⟨-, h, -⟩ | ⟨-, h, -⟩
  · exact absurd hinst h
  · exact h
  · exact absurd (lt_statusOverhead_iff.mpr hlen) h
  · exact absurd (lt_statusOverhead_iff.mpr hlen) h

theorem checkHead_of_capacity (hinst : s.rinst = statusMarker) (hlen : 4 ≤ s.rlen.toNat) (hce : s.opCe = true)
    (hcap : s.rlen - statusOverhead ≠ s.opCap) :
    checkHead s = fail .badLength { s with rem := s.rlen - statusOverhead } := by
  rcases checkHead_eq s with ⟨h, -⟩ | ⟨-, h, -⟩ | ⟨-, -, -, -, h⟩ | ⟨-, -, h, -⟩
  · exact absurd hinst h
  · exact absurd (lt_statusOverhead_iff.mp h) (by omega)
  · exact h
  · exact absurd (h hce) hcap

theorem checkHead_of_accepted (hinst : s.rinst = statusMarker) (hlen : 4 ≤ s.rlen.toNat)
    (hcap : s.opCe = true → s.rlen - statusOverhead = s.opCap) :
    checkHead s = rawLoop { s with rem := s.rlen - statusOverhead } := by
  rcases checkHead_eq s with ⟨h, -⟩ | ⟨-, h, -⟩ | ⟨-, -, hce, h, -⟩ | ⟨-, -, -, h⟩
  · exact absurd hinst h
  · exact absurd (lt_statusOverhead_iff.mp h) (by omega)
  · exact absurd (hcap hce) h
  · exact h

end

/-- STAT of a frame that PARSE ends on, from STAT 0. -/
theorem setAlert_setKind_zero (k : Byte) (a : Bool) : setAlert (setKind 0#11 k) a = statOf k a false false := by
  simp [setAlert, setKind]

theorem fail_eq {s : State} (hstat : s.stat = 0#11) (k : LocalKind) :
    fail k s = { s with stat := statOf (kindCode k) false false false, skip := false, ph := .idle } := by
  rw [fail, hstat, setAlert_setKind_zero]

/-- Settles O51: after the five head bytes each clause is one outcome of the head's checks. -/
theorem parseRejectsTheHead : Obligations.ParseRejectsTheHead := by
  unfold Obligations.ParseRejectsTheHead
  intro s ce cap len id inst err after hu hidle hrx
  refine ⟨_, exec_parse_of_idle hidle ce cap, ?_⟩
  rintro u rfl
  have head := runs_parse_head hu ce cap hrx
  refine ⟨fun hinst => ?_, fun hinst hlen => ?_, fun hinst hlen hce hcap => ?_⟩
  · rw [checkHead_of_not_status hinst, fail_eq rfl] at head
    exact head
  · rw [checkHead_of_short hinst hlen, fail_eq rfl] at head
    exact head
  · have differ : len - statusOverhead ≠ cap := by
      rintro rfl
      exact hcap (BitVec.toNat_sub_of_le hlen)
    rw [checkHead_of_capacity hinst hlen hce differ, fail_eq rfl] at head
    exact head

/-- PARSE with the Instruction byte and the Error byte read, before it checks the head. -/
def pairRead (b e : Byte) (after : List Byte) (s : State) : State :=
  { s with
    rinst := b, rerr := e, crc := adv (adv s.crc b) e, rx := after, trace := s.trace ++ [.pull b] ++ [.pull e],
    ph := .pErr }

theorem runs_pairRead {s : State} {b e : Byte} {after : List Byte} (hu : Unhindered s) (hph : s.ph = .pInst)
    (hrx : s.rx = b :: e :: after) : Runs 2 s (checkHead (pairRead b e after s)) := by
  have hbusy : s.ph ≠ .idle := by rw [hph]; decide
  have inst : portEvent s = .next (pullThen recvInst s) := by simp only [portEvent, hph]
  have events : Runs 2 s (recvErr e (pulled e after (recvInst b (pulled b (e :: after) s)))) :=
    runs_pull_cons hu hbusy inst hrx (runs_pull hu nofun rfl rfl)
  exact events

/-- Settles O54: the Error byte is read in either case, then the head's checks decide. -/
theorem onlyTheStatusMarkerGoesOn : Obligations.OnlyTheStatusMarkerGoesOn := by
  unfold Obligations.OnlyTheStatusMarkerGoesOn
  intro s b e after hu hph hstat hrx
  refine ⟨_, runs_pairRead hu hph hrx, fun hb => ?_, fun hb hlen hce => ?_⟩
  · rw [checkHead_of_not_status (s := pairRead b e after s) hb, fail_eq (s := pairRead b e after s) hstat]
    exact ⟨rfl, rfl, rfl, rfl, rfl⟩
  · have no_check : (pairRead b e after s).opCe ≠ true := by rw [pairRead, hce]; decide
    rw [checkHead_of_accepted (s := pairRead b e after s) hb hlen fun h => absurd h no_check]
    have hzero : s.rlen - statusOverhead = 0x0000#16 ↔ s.rlen = 4 := sub_eq_zero
    rcases rawLoop_eq { pairRead b e after s with rem := s.rlen - statusOverhead } with ⟨hrem, h⟩ | ⟨hrem, h⟩
    · exact h ▸ ⟨hstat, rfl, (if_pos (hzero.mp hrem)).symm⟩
    · exact h ▸ ⟨hstat, rfl, (if_neg (mt hzero.mpr hrem)).symm⟩

/-! ## The raw parameter bytes -/

theorem rawLoop_withPhase (s : State) (ph : Phase) : rawLoop { s with ph := ph } = rawLoop s := by
  unfold rawLoop
  split <;> rfl

/-- PARSE after a raw byte that it drops (R187). -/
def rawDropped (b : Byte) (rest : List Byte) (s : State) : State :=
  { s with
    crc := adv s.crc b, rem := s.rem - 1, skip := false, rx := rest, trace := s.trace ++ [.pull b] }

/-- PARSE after a raw byte that it keeps and pushes to PO (R185, R186). -/
def rawKept (b : Byte) (rest : List Byte) (s : State) : State :=
  { s with
    crc := adv s.crc b, rem := s.rem - 1, skip := (feed 3 s.s3 b).2, s3 := (feed 3 s.s3 b).1, nlog := s.nlog + 1,
    held := b, rx := rest, trace := s.trace ++ [.pull b, .pushPo b] }

section
variable {s : State} {b : Byte} {rest : List Byte} (hu : Unhindered s) (hrem : s.rem ≠ 0x0000#16)
  (hrx : s.rx = b :: rest)
include hu hrem hrx

theorem runs_rawDropped (hskip : s.skip = true) : Runs 1 (rawLoop s) (rawLoop (rawDropped b rest s)) := by
  rw [rawLoop, if_neg hrem]
  have event := runs_pull (s := { s with ph := .pRaw }) hu nofun rfl hrx
  rcases recvRaw_eq b (pulled b rest { s with ph := .pRaw }) with ⟨-, h⟩ | ⟨no_skip, -⟩
  · rw [h] at event
    rw [← rawLoop_withPhase _ .pRaw]
    exact event
  · exact absurd (hskip.symm.trans no_skip) (by decide)

theorem runs_rawKept (hskip : s.skip = false) : Runs 2 (rawLoop s) (rawLoop (rawKept b rest s)) := by
  rw [rawLoop, if_neg hrem]
  have pull := runs_pull (s := { s with ph := .pRaw }) hu nofun rfl hrx
  rcases recvRaw_eq b (pulled b rest { s with ph := .pRaw }) with ⟨skip, -⟩ | ⟨-, h⟩
  · exact absurd (skip.symm.trans hskip) (by decide)
  · rw [h] at pull
    have kept := pull.trans (runs_event hu nofun rfl)
    rw [← rawLoop_withPhase _ .pOut]
    convert kept using 1
    simp [sendLogical, rawKept, pushPo, pulled]

end

/-- PARSE past its parameter loop, with the raw bytes `raw` read. -/
def rawDone (raw after : List Byte) (s : State) : State :=
  { s with
    crc := fold s.crc raw, rem := 0x0000#16, skip := false,
    nlog := s.nlog + BitVec.ofNat 16 (destuffFrom s.s3 s.skip raw).length,
    s3 := feedAll 3 s.s3 (destuffFrom s.s3 s.skip raw), held := (destuffFrom s.s3 s.skip raw).getLastD s.held,
    rx := after, trace := s.trace ++ rawEvents s.s3 s.skip raw, ph := .pC0 }

theorem rawDone_cons_of_skip {s : State} (hskip : s.skip = true) (b : Byte) (raw after : List Byte) :
    rawDone (b :: raw) after s = rawDone raw after (rawDropped b (raw ++ after) s) := by
  simp [rawDone, rawDropped, hskip, rawEvents]

theorem rawDone_cons_of_keep {s : State} (hskip : s.skip = false) (b : Byte) (raw after : List Byte) :
    rawDone (b :: raw) after s = rawDone raw after (rawKept b (raw ++ after) s) := by
  have logical : destuffFrom s.s3 s.skip (b :: raw) = b :: destuffFrom (feed 3 s.s3 b).1 (feed 3 s.s3 b).2 raw := by
    rw [hskip, destuffFrom_keep]
  have events : rawEvents s.s3 s.skip (b :: raw) =
      [.pull b, .pushPo b] ++ rawEvents (feed 3 s.s3 b).1 (feed 3 s.s3 b).2 raw := by
    rw [hskip]
    rfl
  rw [rawDone, logical, events]
  have count (q : List Byte) : s.nlog + BitVec.ofNat 16 (b :: q).length = s.nlog + 1 + BitVec.ofNat 16 q.length := by
    rw [List.length_cons, BitVec.ofNat_add]
    ac_rfl
  rw [count]
  simp [rawDone, rawKept, List.getLast?_cons]

/-- From `rem` the loop reads the raw bytes and pushes the logical ones. -/
theorem runs_rawLoop {s : State} {raw after : List Byte} (hu : Unhindered s) (hrem : s.rem.toNat = raw.length)
    (hrx : s.rx = raw ++ after) :
    Runs (rawEvents s.s3 s.skip raw).length (rawLoop s) (rawDone raw after s) := by
  induction raw generalizing s with
  | nil =>
    have hzero : s.rem = 0x0000#16 := BitVec.eq_of_toNat_eq hrem
    have done : rawLoop s = rawDone [] after s := by
      rw [rawLoop, if_pos hzero]
      simp [rawDone, rawEvents, hzero, ← show s.rx = after from hrx]
    rw [done]
    exact runs_zero _
  | cons b raw ih =>
    rw [List.length_cons] at hrem
    have hpos : s.rem ≠ 0x0000#16 := by rintro h; rw [h] at hrem; cases hrem
    have hnext : (s.rem - 1).toNat = raw.length := by bv_omega
    cases hskip : s.skip with
    | true =>
      rw [rawDone_cons_of_skip hskip]
      have rest := ih (s := rawDropped b (raw ++ after) s) hu hnext rfl
      rw [rawEvents, if_pos rfl, List.length_cons, Nat.add_comm]
      exact (runs_rawDropped hu hpos hrx hskip).trans rest
    | false =>
      rw [rawDone_cons_of_keep hskip]
      have rest := ih (s := rawKept b (raw ++ after) s) hu hnext rfl
      have events := (runs_rawKept hu hpos hrx hskip).trans rest
      rw [Nat.add_comm] at events
      exact events

/-! ## The events of the parameter loop -/

section
variable (b : Byte) (u : List PortEvent)

@[simp] theorem poBytes_cons_pull : poBytes (.pull b :: u) = poBytes u := rfl
@[simp] theorem poBytes_cons_pushPo : poBytes (.pushPo b :: u) = b :: poBytes u := rfl
@[simp] theorem pulledBytes_cons_pull : pulledBytes (.pull b :: u) = b :: pulledBytes u := rfl
@[simp] theorem pulledBytes_cons_pushPo : pulledBytes (.pushPo b :: u) = pulledBytes u := rfl

end

section
variable (c : Fin 3) (skip : Bool) (raw : List Byte)

theorem poBytes_rawEvents : poBytes (rawEvents c skip raw) = destuffFrom c skip raw := by
  induction raw generalizing c skip with
  | nil => rfl
  | cons b raw ih =>
    cases skip <;> simp [rawEvents, ih]

theorem pulledBytes_rawEvents : pulledBytes (rawEvents c skip raw) = raw := by
  induction raw generalizing c skip with
  | nil => rfl
  | cons b raw ih =>
    cases skip <;> simp [rawEvents, ih]

end

/-! ## The end -/

/-- The verdict of PARSE: it sets STAT and goes to idle, nothing else. -/
theorem verdict_of_stat_zero {s : State} (hstat : s.stat = 0#11) (hskip : s.skip = false) :
    verdict s = { s with stat := verdictStat s.rcrc s.crc s.rerr, ph := .idle } := by
  rcases verdict_eq s with ⟨hcrc, h⟩ | ⟨hcrc, hkind, h⟩ | ⟨hcrc, hkind, h⟩
  · rw [h, fail_eq hstat, verdictStat, if_pos hcrc, ← hskip]
    rfl
  · rw [h, reportDevice, hstat, setAlert_setKind_zero, verdictStat, if_neg (not_not.mpr hcrc), if_pos hkind, ← hskip]
  · rw [h, reportOk, hstat, setKind_zero_zero, verdictStat, if_neg (not_not.mpr hcrc), if_neg (not_not.mpr hkind)]

/-- PARSE with the CRC field read, before its verdict. -/
def crcRead (c0 c1 : Byte) (after : List Byte) (s : State) : State :=
  { s with rcrc := c1 ++ c0, rx := after, trace := s.trace ++ pulls [c0, c1], ph := .pC1 }

theorem runs_crcRead {s : State} {c0 c1 : Byte} {after : List Byte} (hu : Unhindered s) (hph : s.ph = .pC0)
    (hrx : s.rx = c0 :: c1 :: after) : Runs 2 s (verdict (crcRead c0 c1 after s)) := by
  have hbusy : s.ph ≠ .idle := by rw [hph]; decide
  have low : portEvent s = .next (pullThen recvC0 s) := by simp only [portEvent, hph]
  have events : Runs 2 s (recvC1 c1 (pulled c1 after (recvC0 c0 (pulled c0 (c1 :: after) s)))) :=
    runs_pull_cons hu hbusy low hrx (runs_pull hu nofun rfl rfl)
  convert events using 1
  simp [recvC1, crcRead, recvC0, pulled, pulls, setHi_setLo]

/-! ## The whole frame -/

/-- The state that R192 gives after PARSE on a frame that passes its head. -/
def parseDone (ce : Bool) (cap : Half) (id : Byte) (len : Half) (err c0 c1 : Byte) (raw after : List Byte) (s : State) :
    State :=
  { s with
    rid := id, rlen := len, rinst := 0x55#8, rerr := err, rem := 0x0000#16, rcrc := c1 ++ c0,
    nlog := BitVec.ofNat 16 (destuff raw).length, skip := false,
    crc := parseCrc (headBytes id len 0x55#8 err ++ raw), s3 := feedAll 3 0 (destuff raw),
    stat := verdictStat (c1 ++ c0) (parseCrc (headBytes id len 0x55#8 err ++ raw)) err,
    opCe := ce, opCap := cap, held := (destuff raw).getLastD s.held, rx := after, ph := .idle,
    trace := s.trace ++ pulls (headBytes id len 0x55#8 err) ++ rawEvents 0 false raw ++ pulls [c0, c1] }

/-- PARSE before its parameter loop, the head read and passed (R184). -/
def headPassed (ce : Bool) (cap : Half) (id : Byte) (len : Half) (err : Byte) (after : List Byte) (s : State) : State :=
  { headRead ce cap id len 0x55#8 err after s with rem := len - statusOverhead }

theorem verdict_crcRead_rawDone_headPassed (ce : Bool) (cap : Half) (id : Byte) (len : Half) (err c0 c1 : Byte)
    (raw after rest : List Byte) (s : State) :
    verdict (crcRead c0 c1 after (rawDone raw (c0 :: c1 :: after) (headPassed ce cap id len err rest s))) =
      parseDone ce cap id len err c0 c1 raw after s := by
  have crc : fold (parseCrc (headBytes id len 0x55#8 err)) raw = parseCrc (headBytes id len 0x55#8 err ++ raw) :=
    (fold_append ..).symm
  rw [verdict_of_stat_zero rfl rfl]
  simp [crcRead, rawDone, headPassed, headRead, startParse, parseDone, crc, destuff]

/-- From acceptance to idle, PARSE reads a frame whose Length fits its raw bytes and its capacity. -/
theorem runs_parse {s : State} {ce : Bool} {cap len : Half} {id err c0 c1 : Byte} {raw after : List Byte}
    (hu : Unhindered s) (hlen : len.toNat = raw.length + 4) (hcap : ce = true → cap.toNat = raw.length)
    (hrx : s.rx = headBytes id len 0x55#8 err ++ raw ++ [c0, c1] ++ after) :
    Runs (5 + (rawEvents 0 false raw).length + 2) (startParse ce cap s)
      (parseDone ce cap id len err c0 c1 raw after s) := by
  have fits : 4 ≤ len.toNat := by omega
  have hrem : (len - statusOverhead).toNat = raw.length := by
    have sub : (len - statusOverhead).toNat = len.toNat - 4 := BitVec.toNat_sub_of_le fits
    omega
  have hrx_head : s.rx = headBytes id len 0x55#8 err ++ (raw ++ c0 :: c1 :: after) := by simpa using hrx
  have head := runs_parse_head hu ce cap hrx_head
  rw [checkHead_of_accepted (s := headRead ce cap id len 0x55#8 err _ s) rfl fits
    fun hce => BitVec.eq_of_toNat_eq (hrem.trans (hcap hce).symm)] at head
  have loop := head.trans (runs_rawLoop (s := headPassed ce cap id len err _ s) hu hrem rfl)
  rw [← verdict_crcRead_rawDone_headPassed]
  exact loop.trans (runs_crcRead hu rfl rfl)

/-- Settles O52: the head, the parameter loop and the CRC field, one after another. -/
theorem parseReadsTheFrame : Obligations.ParseReadsTheFrame := by
  unfold Obligations.ParseReadsTheFrame
  intro s ce cap len id err c0 c1 raw after hu hidle hlen hcap hrx
  exact ⟨poBytes_rawEvents 0 false raw, pulledBytes_rawEvents 0 false raw, _, exec_parse_of_idle hidle ce cap,
    runs_parse hu hlen hcap hrx⟩

end Sys2Proof.Machine
end

section
/-! A status frame that ASM sends and PARSE reads (43_assemble R169). -/

namespace Sys2Proof.Machine

theorem poBytes_append (u v : List PortEvent) : poBytes (u ++ v) = poBytes u ++ poBytes v := List.filterMap_append

theorem txBytes_append (u v : List PortEvent) : txBytes (u ++ v) = txBytes u ++ txBytes v := List.filterMap_append

theorem txBytes_map_pushTx (bs : List Byte) : txBytes (bs.map .pushTx) = bs := by
  simp [txBytes, List.filterMap_map]

theorem poBytes_pulls (bs : List Byte) : poBytes (pulls bs) = [] := by simp [poBytes, pulls, List.filterMap_map]

theorem txBytes_asmDone (id inst : Byte) (p : List Byte) (s : State) :
    txBytes (asmDone id inst p s).trace = txBytes s.trace ++ instrFrame id inst p := by
  rw [asmDone, txBytes_append, txBytes_map_pushTx]

theorem poBytes_parseDone (ce : Bool) (cap : Half) (id : Byte) (len : Half) (err c0 c1 : Byte) (raw after : List Byte)
    (s : State) :
    poBytes (parseDone ce cap id len err c0 c1 raw after s).trace = poBytes s.trace ++ destuff raw := by
  simp [parseDone, poBytes_append, poBytes_pulls, poBytes_rawEvents, destuff]

/-! ## An Error byte before the parameters -/

section
variable {e : Byte} (he : e ≠ 0xFF#8) (q : List Byte)
include he

/-- A first byte other than FF leaves the stuffing sentry at its start. -/
theorem stuff_cons_of_ne : stuff (e :: q) = e :: stuff q := by
  simp [stuff, stuffFrom_cons, feed_three_zero, he]

theorem stuffCount_cons_of_ne : stuffCount (e :: q) = stuffCount q := by
  simp [stuffCount, stuffCountFrom_cons, feed_three_zero, he]

/-- The frame of an Error byte and parameters, without its header, is a status frame. -/
theorem instrFrame_cons_drop_header (id inst : Byte) :
    (instrFrame id inst (e :: q)).drop 4 = headBytes id (frameLength (e :: q)) inst e ++ stuff q ++
      [loByte (frameCrc id inst (e :: q)), hiByte (frameCrc id inst (e :: q))] := by
  rw [instrFrame_drop_header, stuff_cons_of_ne he]
  rfl

/-- What PARSE accumulates over it from the header's CRC is the CRC of the whole frame. -/
theorem parseCrc_headBytes_stuff (id inst : Byte) :
    parseCrc (headBytes id (frameLength (e :: q)) inst e ++ stuff q) = frameCrc id inst (e :: q) := by
  rw [parseCrc, ← fold_header, ← fold_append, frameCrc, frameBody, stuff_cons_of_ne he]
  rfl

/-- Its Length counts the stuffed parameters and the four bytes from the Instruction byte on (R84). -/
theorem frameLength_cons_toNat (hlen : (e :: q).length ≤ 49149) :
    (frameLength (e :: q)).toNat = (stuff q).length + 4 := by
  rw [frameLength_toNat hlen, stuffCount_cons_of_ne he, length_stuff, List.length_cons]
  omega

end

theorem verdictStat_ok {crc : Half} {err : Byte} (herr : errKind err = 0x00#8) : verdictStat crc crc err = 0#11 := by
  rw [verdictStat, if_neg (not_not.mpr rfl), if_neg (not_not.mpr herr)]

/-- Settles O53: with an Error byte other than FF first, what ASM sends after the header is a status frame whose raw
parameters are the stuffed ones and whose CRC is the one PARSE accumulates. -/
theorem statusFrameRoundTrip : Obligations.StatusFrameRoundTrip := by
  unfold Obligations.StatusFrameRoundTrip
  intro s id e q hu hidle hp herr
  have he : e ≠ 0xFF#8 := by rcases herr with rfl | rfl <;> decide
  have hkind : errKind e = 0x00#8 := by rcases herr with rfl | rfl <;> decide
  refine ⟨_, _, _, instrFrame id 0x55#8 (e :: q), exec_asm_of_idle hidle hp id 0x55#8, runs_asm hu hp id 0x55#8, rfl,
    txBytes_asmDone .., fun r after hr hr_idle hrx => ?_⟩
  rw [instrFrame_cons_drop_header he] at hrx
  refine ⟨_, _, _, exec_parse_of_idle hr_idle false 0x0000#16,
    runs_parse hr (frameLength_cons_toNat he q (params_length_le hp)) nofun hrx, rfl, ?_, rfl, rfl, ?_⟩
  · simp only [parseDone, parseCrc_headBytes_stuff he, hiByte_append_loByte]
    exact verdictStat_ok hkind
  · rw [poBytes_parseDone]
    exact congrArg (poBytes r.trace ++ ·) (destuffFrom_stuffFrom 0 q)

end Sys2Proof.Machine
end
